-- ==== Sys2Proof/Word.lean ====
section
/-! DEFINITION. The two widths of the block: the message and register byte, and the command word. -/

namespace Sys2Proof

/-- An unsigned 8-bit quantity: a message byte, the CRC register, the response data (spec R46). -/
abbrev Byte := BitVec 8

/-- A command word `cmd[15:0]` (spec R25). -/
abbrev Word := BitVec 16

end Sys2Proof
end

