-- ==== Sys2Proof/Config.lean ====
section
/-! DEFINITION. What one block fixes and the spec leaves open. The source fixes every parameter of the CRC and
the spec fixes every parameter of the wrapper (00_scope.md section 3); the one open parameter is the power-on state. -/

namespace Sys2Proof

/-- `PowerOnState` (spec R13): the value of every register of 10_state.md before the first reset. It is an argument
of the model, any value of every register; nothing assumes one (`Machine.State.powerOn`). -/
structure PowerOnState where
  crc      : Byte
  dsh      : Byte
  cnt      : BitVec 3
  busy     : Bool
  rspValid : Bool
  rspData  : Byte
  rspErr   : Bool
  deriving DecidableEq, Repr

end Sys2Proof
end

