-- ==== Sys2Proof/Machine/State.lean ====
section
/-! DEFINITION. The state of the block (10_state.md), the pins of a clock edge, what the host does next, and the
reasons a step may stop. -/

namespace Sys2Proof.Machine

/-- The input ports as sampled just before one rising edge of `clk` (spec R10, R74). -/
structure Pins where
  rst      : Bool
  cmdValid : Bool
  cmd      : Word
  deriving DecidableEq, Repr

/-- The host offers nothing and does not reset. The word on `cmd` has no effect then (spec R10). -/
def Pins.quiet : Pins := { rst := false, cmdValid := false, cmd := 0#16 }

/-- The host offers the word `w`. -/
def Pins.offer (w : Word) : Pins := { rst := false, cmdValid := true, cmd := w }

/-- The host holds reset. -/
def Pins.reset : Pins := { rst := true, cmdValid := false, cmd := 0#16 }

/-- One action of the host, at one of the two levels of spec R3 (DESIGN CHOICE, log entry 2). -/
inductive HostEvent where
  /-- Cycle level: the pins of the next rising edge. -/
  | edge (p : Pins)
  /-- Transaction level: the word `w`, offered until it is accepted and has its response. -/
  | command (w : Word)
  deriving DecidableEq, Repr

/-- The registers of 10_state.md section 1, which "are all the state the block has" (spec R11), and what the host
does next. -/
structure State where
  /-- The CRC register (spec R5). -/
  crc      : Byte
  /-- The data shift register (spec R6). -/
  dsh      : Byte
  /-- The bit index (spec R7). -/
  cnt      : BitVec 3
  /-- The busy flag (spec R8). -/
  busy     : Bool
  /-- Response valid (spec R9). -/
  rspValid : Bool
  /-- Response data (spec R9). -/
  rspData  : Byte
  /-- Response error (spec R9). -/
  rspErr   : Bool
  /-- What the host does next, first event first: the model's own field (DESIGN CHOICE, log entry 1). -/
  inputs   : List HostEvent
  deriving DecidableEq, Repr

/-- The block right after reset (spec R12; log entry 11), with nothing offered yet (DESIGN CHOICE, log entry 1). -/
def State.reset : State :=
  { crc := 0x00#8, dsh := 0x00#8, cnt := 0#3, busy := false
    rspValid := false, rspData := 0x00#8, rspErr := false, inputs := [] }

/-- The block before its first reset, for any `PowerOnState` and any host (spec R13). -/
def State.powerOn (p : PowerOnState) (inputs : List HostEvent) : State :=
  { crc := p.crc, dsh := p.dsh, cnt := p.cnt, busy := p.busy
    rspValid := p.rspValid, rspData := p.rspData, rspErr := p.rspErr, inputs := inputs }

/-- The one result a command produces: 8 data bits and an error bit (spec R9, R19). -/
structure Response where
  data : Byte
  err  : Bool
  deriving DecidableEq, Repr

/-- The output ports (10_state.md section 2). -/
structure Outputs where
  cmdReady : Bool
  rspValid : Bool
  rspData  : Byte
  rspErr   : Bool
  deriving DecidableEq, Repr

/-- Why the machine stops with a fault: never. An illegal word gets its error response and the block "stays ready
for the next command" (spec R58), the datapath never fails (R61), and there is no trap (R64). So there is no
constructor, and no step can end in a fault (DEDUCED, log entry 5; safe). -/
inductive Fault where
  deriving DecidableEq, Repr

/-- Why a step has no meaning. -/
inductive Refusal where
  /-- An instruction that has no meaning yet, rejected by name in `exec`'s arm. Every instruction of this block has
  its meaning, so nothing raises it. Safe: the machine stops where the hardware goes on. -/
  | notModelled (mnemonic : String)
  deriving DecidableEq, Repr

end Sys2Proof.Machine
end

