-- ==== Sys2Proof/Machine/Flags.lean ====
section
/-! DEFINITION. The response registers and the ready signal: every flag the block has (spec R8, R9, R10). -/

namespace Sys2Proof.Machine

/-- `Respond(data, err)` (spec R9): the response of this edge. -/
def respond (data : Byte) (err : Bool) (s : State) : State :=
  { s with rspValid := true, rspData := data, rspErr := err }

/-- An edge that produces no response: `rsp_valid <- 0`, the other two keep their values (spec R9). -/
def noResponse (s : State) : State := { s with rspValid := false }

/-- `cmd_ready = !busy && !rst`, combinational (spec R10). -/
def cmdReady (s : State) (rst : Bool) : Bool := !s.busy && !rst

/-- The output ports in a cycle whose `rst` is given. None depends on `cmd` or `cmd_valid` (spec R10). -/
def outputs (s : State) (rst : Bool) : Outputs :=
  { cmdReady := cmdReady s rst, rspValid := s.rspValid, rspData := s.rspData, rspErr := s.rspErr }

/-- The response in the response registers. -/
def response (s : State) : Response := { data := s.rspData, err := s.rspErr }

end Sys2Proof.Machine
end

