-- ==== Sys2Proof/Syntax.lean ====
section
/-! DEFINITION. The commands of the block (one constructor per row of spec/opcode_table.json), and the lines of the
host's assembler (30_encoding.md section 3). -/

namespace Sys2Proof

/-- The four legal commands (spec R27). -/
inductive Instr where
  /-- CLEAR: start a new message (spec R48). -/
  | clear
  /-- FEED: process the message byte `d` (spec R49). -/
  | feed (d : Byte)
  /-- READ: answer the register through the bit-stuffer (spec R50). -/
  | read
  /-- READRAW: answer the register itself (spec R51). -/
  | readraw
  deriving DecidableEq, Repr

/-- What may stand first in a line of a command list (spec R32, R33). -/
inductive Mnemonic where
  | clear
  | feed
  | read
  | readraw
  /-- `.word`: a raw word, legal or not. -/
  | word
  /-- `CRC7`: the pseudo-instruction of a whole message. -/
  | crc7
  deriving DecidableEq, Repr

/-- One line of a command list, its operands still integers, as they were written (spec R32). -/
structure SourceLine where
  mnemonic : Mnemonic
  operands : List Int
  deriving DecidableEq, Repr

end Sys2Proof
end

