-- ==== Sys2Proof/WellFormed.lean ====
section
/-! DEFINITION. What must hold of a command and of a line of the assembler. -/

namespace Sys2Proof

/-- Every command is well formed: the one operand is a byte, and every byte is legal, because "a value outside
[0, 255] cannot be presented to the block" (spec R26, R49). The check is written out per constructor so that a
command with a narrower operand could not slip past. -/
def Instr.wellFormed : Instr → Bool
  | .clear => true
  | .feed _ => true
  | .read => true
  | .readraw => true

/-- The source's element range [0, 255] (spec R53, R59). -/
def inByteRange (v : Int) : Bool := decide (0 ≤ v) && decide (v ≤ 255)

/-- What the assembler accepts (spec R32, R33): no operand on CLEAR, READ and READRAW; one operand of 0 to 255 on
FEED; one 16-bit operand on `.word` (its range: log entry 8); any number of operands of 0 to 255 on `CRC7`. -/
def SourceLine.wellFormed (l : SourceLine) : Bool :=
  match l.mnemonic, l.operands with
  | .clear, [] => true
  | .read, [] => true
  | .readraw, [] => true
  | .feed, [b] => inByteRange b
  | .word, [v] => decide (0 ≤ v) && decide (v ≤ 65535)
  | .crc7, bs => bs.all inByteRange
  | _, _ => false

end Sys2Proof
end

