-- ==== Sys2Proof/Decode.lean ====
section
/-! DEFINITION. The decoder of 30_encoding.md, total on every word, and after it the encoder. -/

namespace Sys2Proof

/-- `OP = cmd[15:8]` (spec R25). -/
def opOf (w : Word) : Byte := w.extractLsb' 8 8

/-- `DATA = cmd[7:0]` (spec R25). -/
def dataOf (w : Word) : Byte := w.extractLsb' 0 8

/-- What a word decodes to: one of the four commands, or ILLEGAL; there is no other outcome (spec R29). -/
inductive Decoded where
  | legal (i : Instr)
  /-- ILLEGAL (spec R28): the word whose outcome is IllegalCommand (spec R58). -/
  | illegal
  deriving DecidableEq, Repr

/-- `Decode` (spec R31). -/
def decode (w : Word) : Decoded :=
  if opOf w = 0x01#8 ∧ dataOf w = 0x00#8 then .legal .clear
  else if opOf w = 0x02#8 then .legal (.feed (dataOf w))
  else if opOf w = 0x03#8 ∧ dataOf w = 0x00#8 then .legal .read
  else if opOf w = 0x04#8 ∧ dataOf w = 0x00#8 then .legal .readraw
  else .illegal

/-- The word whose bits are numbered as spec/opcode_table.json numbers them, bits from `nbits` up being 0. A command
is one 16-bit word on a parallel port (spec R17, R30), so no layout in bytes comes in (log entry 4). -/
def tableWord (nbits w : Nat) : Word := BitVec.ofNat 16 (w % 2 ^ nbits)

/-- The instruction the decoder reads from such a word. -/
def decodeTableWord (nbits w : Nat) : Option Instr :=
  match decode (tableWord nbits w) with
  | .legal i => some i
  | .illegal => none

/-- The OP of each command (spec R27). -/
def opcode : Instr → Byte
  | .clear => 0x01#8
  | .feed _ => 0x02#8
  | .read => 0x03#8
  | .readraw => 0x04#8

/-- The DATA of each command: the byte to feed for FEED, 0x00 for every other (spec R26). -/
def dataField : Instr → Byte
  | .clear => 0x00#8
  | .feed d => d
  | .read => 0x00#8
  | .readraw => 0x00#8

/-- The word of a command: OP in bits 15..8, DATA in bits 7..0 (spec R25, R27). -/
def encode (i : Instr) : Word := opcode i ++ dataField i

/-- The `match` and `mask` columns of one row of the opcode map. -/
structure OpcodeRow where
  pattern : Word
  mask    : Word
  deriving DecidableEq, Repr

/-- The row of the opcode map a command belongs to (spec R27, opcode_table.json). -/
def opcodeRow : Instr → OpcodeRow
  | .clear => ⟨0x0100#16, 0xFFFF#16⟩
  | .feed _ => ⟨0x0200#16, 0xFF00#16⟩
  | .read => ⟨0x0300#16, 0xFFFF#16⟩
  | .readraw => ⟨0x0400#16, 0xFFFF#16⟩

/-- The opcode map (spec R27), one row per command. -/
def opcodeMap : List OpcodeRow :=
  [⟨0x0100#16, 0xFFFF#16⟩, ⟨0x0200#16, 0xFF00#16⟩, ⟨0x0300#16, 0xFFFF#16⟩, ⟨0x0400#16, 0xFFFF#16⟩]

/-- A word belongs to a row when its bits under the mask are the row's pattern. -/
def OpcodeRow.hasWord (r : OpcodeRow) (w : Word) : Bool := w &&& r.mask == r.pattern

end Sys2Proof
end

