-- ==== Sys2Proof/Machine/Datapath.lean ====
section
/-! DEFINITION. The CRC datapath of 40_datapath.md: the bit step with the 0x09 tap, the byte step, the output
bit-stuffer, and the whole-message function. Every function is total (spec R61). -/

namespace Sys2Proof.Machine

/-- The feedback tap 0x09: bits 3 and 0 (spec R34). -/
def tap : Byte := 0x09#8

/-- The initial register value (spec R42, R48). -/
def initialCrc : Byte := 0x00#8

/-- `BitStep` (spec R34): shift left with zero fill, discard the overflow, and XOR in the tap when the input bit
differs from bit 7 of the just-shifted register. -/
def bitStep (crc : Byte) (b : Bool) : Byte :=
  let shifted := crc <<< 1
  if b ^^ shifted.getLsbD 7 then shifted ^^^ tap else shifted

/-- The input bit of step `k` of a byte, `d[7-k]`: bit 7 is fed first (spec R38, R39). -/
def inputBit (d : Byte) (k : Nat) : Bool := d.getLsbD (7 - k)

/-- The eight bits of a byte in the order they are fed (spec R38). -/
def inputBits (d : Byte) : List Bool := (List.range 8).map (inputBit d)

/-- Feed a list of bits, first to last. -/
def feedBits (crc : Byte) (bits : List Bool) : Byte := bits.foldl bitStep crc

/-- `ByteStep` (spec R38): the eight bits of `d`, most significant first. -/
def byteStep (crc : Byte) (d : Byte) : Byte := feedBits crc (inputBits d)

/-- `Fold(ByteStep, c, bytes)` (spec R44): the register after the bytes, first to last. -/
def feedBytes (crc : Byte) (bytes : List Byte) : Byte := bytes.foldl byteStep crc

/-- `Stuff`, the output bit-stuffer (spec R40): shift left by one and force the stop bit. It inserts no bit
anywhere else (90_conflicts.md C5). -/
def stuff (crc : Byte) : Byte := (crc <<< 1) ||| 1#8

/-- `crc7` (spec R42): the result byte of a whole message. -/
def crc7 (bytes : List Byte) : Byte := stuff (feedBytes initialCrc bytes)

/-- The bit step of software that keeps the register in a wider type of `n` bits and truncates no shift to 8 bits
(spec R37, 90_conflicts.md C3). -/
def wideBitStep {n : Nat} (crc : BitVec n) (b : Bool) : BitVec n :=
  let shifted := crc <<< 1
  if b ^^ shifted.getLsbD 7 then shifted ^^^ BitVec.ofNat n 0x09 else shifted

/-- That software's byte step: mask to 8 bits, then eight bit steps that may carry above bit 7 (spec R37). -/
def wideByteStep {n : Nat} (crc : BitVec n) (d : Byte) : BitVec n :=
  (inputBits d).foldl wideBitStep (crc &&& BitVec.ofNat n 0xFF)

end Sys2Proof.Machine
end

