-- ==== Sys2Proof/Machine/Operands.lean ====
section
/-! DEFINITION. The operand forms. There is one operand, FEED's byte, and it reaches the datapath one bit an edge
through the data shift register (spec R6, R26). -/

namespace Sys2Proof.Machine

/-- The bit a bit step takes from the data shift register: `dsh[7]` (spec R6). -/
def topBit (dsh : Byte) : Bool := dsh.getLsbD 7

/-- The shift of the data shift register: left by one, bit 0 filled with 0 (spec R6). -/
def shiftByte (dsh : Byte) : Byte := dsh <<< 1

/-- FEED's accept edge loads the operand and starts the sequencer (spec R74). -/
def loadByte (d : Byte) (s : State) : State := { s with dsh := d, cnt := 0#3, busy := true }

end Sys2Proof.Machine
end

