-- ==== Sys2Proof/Machine/Ops.lean ====
section
/-! DEFINITION. The named operations on the block's registers. There is no memory and no program counter
(spec R11, R14), so these are all. -/

namespace Sys2Proof.Machine

/-- A reset edge: every register takes its reset value; what the host does next is the host's (spec R12, R72). -/
def resetRegisters (s : State) : State :=
  { s with crc := 0x00#8, dsh := 0x00#8, cnt := 0#3, busy := false
           rspValid := false, rspData := 0x00#8, rspErr := false }

/-- The register takes the initial value of a message (spec R48). -/
def clearCrc (s : State) : State := { s with crc := initialCrc }

/-- TAKING THE ONE EXCEPTION the block has, IllegalCommand (spec R58): nothing is saved, no mode changes, control
goes nowhere (R64); the response is `Respond(0x00, 1)`. There is no return from it, because there is no trap:
"after an IllegalCommand response the block simply takes the next command" (R65). -/
def illegalCommand (s : State) : State := respond 0x00#8 true s

/-- The whole of a FEED on the registers: the byte's eight bit steps, and the sequencer back at rest with `dsh`
shifted out (spec R49, R11, R75). -/
def feedByte (d : Byte) (s : State) : State :=
  { s with crc := byteStep s.crc d, dsh := 0x00#8, cnt := 0#3, busy := false }

/-- One bit of the FEED in progress: the register takes `dsh[7]` and `dsh` shifts (spec R74). -/
def stepBit (s : State) : State :=
  { s with crc := bitStep s.crc (topBit s.dsh), dsh := shiftByte s.dsh }

/-- The edge of a FEED in progress (spec R74): one bit step, and at the eighth bit the FEED's response. -/
def feedEdge (s : State) : State :=
  if s.cnt = 7#3 then respond 0x00#8 false { stepBit s with busy := false, cnt := 0#3 }
  else noResponse { stepBit s with cnt := s.cnt + 1#3 }

end Sys2Proof.Machine
end

