-- ==== Sys2Proof/Machine/Cycle.lean ====
section
/-! DEFINITION. The cycle level (70_reset_and_hazards.md): one rising edge of `clk` as a function of the pins, the wait
of an offered word, and what the step fetches next. -/

namespace Sys2Proof.Machine

/-- What a legal command does at its accept edge (spec R74). Only FEED is not complete there. -/
def acceptEdge (i : Instr) (s : State) : State :=
  match i with
  | .clear => respond 0x00#8 false (clearCrc s)
  | .feed d => noResponse (loadByte d s)
  | .read => respond (stuff s.crc) false s
  | .readraw => respond s.crc false s

/-- The accept edge of the word `w` (spec R74, R58). -/
def acceptWord (w : Word) (s : State) : State :=
  match decode w with
  | .legal i => acceptEdge i s
  | .illegal => illegalCommand s

/-- One rising edge of `clk` (spec R74): reset first, then the FEED in progress, then an offered word (spec R63). -/
def edge (p : Pins) (s : State) : State :=
  if p.rst then resetRegisters s
  else if s.busy then feedEdge s
  else if p.cmdValid then acceptWord p.cmd s
  else noResponse s

/-- An offered word waits while `busy == 1`: the edges of the FEED in progress, at most `n` (spec R63, R78). -/
def waitEdges (n : Nat) (w : Word) (s : State) : State :=
  match n with
  | 0 => s
  | k + 1 => if s.busy then waitEdges k w (edge (Pins.offer w) s) else s

/-- The state in which the offered word `w` is accepted: a FEED in progress has at most eight edges left (spec R76). -/
def waitReady (w : Word) (s : State) : State := waitEdges 8 w s

/-- What the step takes up next, and the state without it. -/
inductive Fetched where
  | clock (p : Pins) (s : State)
  | command (w : Word) (s : State)
  deriving DecidableEq, Repr

/-- The host's next event. When the list is at its end the host offers nothing and the clock runs on (log entry 1). -/
def fetch (s : State) : Fetched :=
  match s.inputs with
  | [] => .clock Pins.quiet s
  | .edge p :: rest => .clock p { s with inputs := rest }
  | .command w :: rest => .command w { s with inputs := rest }

/-- The host's next event is the command word `w`. -/
def offerCommand (w : Word) (s : State) : State := { s with inputs := .command w :: s.inputs }

/-- The host's next event is one edge with the pins `p`. -/
def offerEdge (p : Pins) (s : State) : State := { s with inputs := .edge p :: s.inputs }

end Sys2Proof.Machine
end

