-- ==== Sys2Proof/Machine/Commands.lean ====
section
/-! DEFINITION. The meanings of the four commands at the transaction level (41_commands.md): each is the whole effect
of an accepted command, from its accept edge to its response (DEDUCED, log entry 10). They are total; no step applies them
while a FEED is in progress (DESIGN CHOICE, log entry 6). -/

namespace Sys2Proof.Machine

/-- CLEAR (spec R48): `crc <- 0x00; Respond(0x00, 0)`. -/
def execClear (s : State) : Host.Outcome State Fault Refusal :=
  .next (respond 0x00#8 false (clearCrc s))

/-- FEED (spec R49): `crc <- ByteStep(crc, d); Respond(0x00, 0)`. -/
def execFeed (d : Byte) (s : State) : Host.Outcome State Fault Refusal :=
  .next (respond 0x00#8 false (feedByte d s))

/-- READ (spec R50): `Respond(Stuff(crc), 0)`. -/
def execRead (s : State) : Host.Outcome State Fault Refusal :=
  .next (respond (stuff s.crc) false s)

/-- READRAW (spec R51): `Respond(crc, 0)`. -/
def execReadraw (s : State) : Host.Outcome State Fault Refusal :=
  .next (respond s.crc false s)

end Sys2Proof.Machine
end

