-- ==== Sys2Proof/Machine/Dispatch.lean ====
section
/-! DEFINITION. One arm per command: the accepted commands of `Exec` (spec R47); its ILLEGAL arm is in Step.lean. -/

namespace Sys2Proof.Machine

def exec (i : Instr) (s : State) : Host.Outcome State Fault Refusal :=
  match i with
  | .clear => Sys2Proof.Machine.execClear s
  | .feed d => Sys2Proof.Machine.execFeed d s
  | .read => Sys2Proof.Machine.execRead s
  | .readraw => Sys2Proof.Machine.execReadraw s

end Sys2Proof.Machine
end

