-- ==== Sys2Proof/Machine/Step.lean ====
section
/-! DEFINITION. One step: the host's next event. An edge event is one rising edge (the cycle level); a command event
is one accepted command, atomic, from offer to response (the transaction level, spec R3, R20, R47). -/

namespace Sys2Proof.Machine

/-- The transaction of the accepted word `w` (spec R47): the command it decodes to, or IllegalCommand (spec R58). -/
def execWord (w : Word) (s : State) : Host.Outcome State Fault Refusal :=
  match decode w with
  | .legal i => exec i s
  | .illegal => .next (illegalCommand s)

/-- One step of the machine (log entry 2). -/
def step (s : State) : Host.Outcome State Fault Refusal :=
  match fetch s with
  | .clock p t => .next (edge p t)
  | .command w t => execWord w (waitReady w t)

/-- The state whose next step runs the word `w`: the host offers it next. No program is stored in this block; its
program is the host's stream of commands (log entry 3). -/
def State.withFetchWord (s : State) (nbits w : Nat) : State := offerCommand (tableWord nbits w) s

end Sys2Proof.Machine
end

