-- ==== Sys2Proof/Machine/Assembler.lean ====
section
/-! DEFINITION. The host's assembler (30_encoding.md section 3): lines to words (spec R32, R33), and the text of a
command list to lines. -/

namespace Sys2Proof.Machine

/-- Why the assembler refuses a line. -/
inductive AsmError where
  /-- A FEED operand outside 0 to 255 (spec R32, R59). -/
  | validationError (v : Int)
  /-- An operand on CLEAR, READ or READRAW, or not exactly one on FEED or `.word` (spec R32). -/
  | operandCount
  /-- A `.word` operand that is no 16-bit word (DESIGN CHOICE, log entry 8). -/
  | wordOutOfRange (v : Int)
  /-- The line starts with none of the six names (spec R32). -/
  | unknownMnemonic
  /-- An operand that is no number (log entry 7). -/
  | badNumeral
  deriving DecidableEq, Repr

/-- What the assembler makes of a line or of a list of lines. -/
inductive Assembled where
  | words (ws : List Word)
  | refused (e : AsmError)
  deriving DecidableEq, Repr

/-- One after the other. DESIGN CHOICE (log entry 14): one refused operand or line refuses the whole, no word of it is
kept, and the first refusal is the one reported; spec R32 only says that the operand is refused. -/
def Assembled.append (a b : Assembled) : Assembled :=
  match a, b with
  | .words xs, .words ys => .words (xs ++ ys)
  | .words _, .refused e => .refused e
  | .refused e, _ => .refused e

/-- The words of many, in order, or the first refusal among them (DESIGN CHOICE, log entry 14). -/
def joinAssembled : List Assembled → Assembled
  | [] => .words []
  | a :: as => a.append (joinAssembled as)

/-- A FEED line's operand is refused outside 0 to 255, "instead of truncating it" (spec R32). -/
def assembleFeed (b : Int) : Assembled :=
  if inByteRange b then .words [encode (.feed (BitVec.ofInt 8 b))] else .refused (.validationError b)

/-- A raw word, which may be illegal (spec R32). -/
def assembleRaw (v : Int) : Assembled :=
  if 0 ≤ v ∧ v ≤ 65535 then .words [BitVec.ofInt 16 v] else .refused (.wordOutOfRange v)

/-- One line (spec R32); `CRC7` expands to `CLEAR`, a FEED per operand, and `READ` (spec R33). One operand out of range
refuses the whole `CRC7` line (DESIGN CHOICE, log entry 14). -/
def assembleLine (l : SourceLine) : Assembled :=
  match l.mnemonic, l.operands with
  | .clear, [] => .words [encode .clear]
  | .read, [] => .words [encode .read]
  | .readraw, [] => .words [encode .readraw]
  | .feed, [b] => assembleFeed b
  | .word, [v] => assembleRaw v
  | .crc7, bs =>
    joinAssembled (.words [encode .clear] :: (bs.map assembleFeed ++ [.words [encode .read]]))
  | _, _ => .refused .operandCount

/-- The lines of a command list, in order; one refused line refuses the list (DESIGN CHOICE, log entry 14). -/
def assembleLines (ls : List SourceLine) : Assembled := joinAssembled (ls.map assembleLine)

/-! ### Text to lines. The lexical details that spec R32 does not state are PRESUMED (log entry 7). -/

/-- Blanks between the parts of a line. -/
def isBlank (c : Char) : Bool := c == ' ' || c == '\t' || c == '\r'

/-- Without the blanks at both ends. -/
def trim (cs : List Char) : List Char := ((cs.dropWhile isBlank).reverse.dropWhile isBlank).reverse

/-- Without the comment: a `;` starts one "that runs to the end of the line" (spec R32). -/
def stripComment (cs : List Char) : List Char := cs.takeWhile (fun c => c != ';')

/-- The pieces between the characters `sep`. -/
def pieces (sep : Char) : List Char → List (List Char)
  | [] => [[]]
  | c :: cs =>
    if c == sep then [] :: pieces sep cs
    else match pieces sep cs with
      | [] => [[c]]
      | p :: ps => (c :: p) :: ps

/-- The value of a digit of a base, if it is one. -/
def digitValue (base : Nat) (c : Char) : Option Nat :=
  let n := c.toNat
  let v :=
    if 48 ≤ n ∧ n ≤ 57 then n - 48
    else if 97 ≤ n ∧ n ≤ 102 then n - 87
    else if 65 ≤ n ∧ n ≤ 70 then n - 55
    else base
  if v < base then some v else none

/-- The value of digits of a base, most significant first, after `acc`. -/
def digitsValue (base : Nat) : List Char → Nat → Option Nat
  | [], acc => some acc
  | c :: cs, acc => (digitValue base c).bind (fun v => digitsValue base cs (acc * base + v))

/-- A number in hexadecimal (`0x40`) or decimal (`64`): spec R32 says so of FEED's byte. That the operand of `.word`
is read in both as well is PRESUMED (log entry 7): R32 gives it no notation, and 95_test_vectors.md P3 shows hexadecimal. -/
def naturalValue (cs : List Char) : Option Nat :=
  match cs with
  | [] => none
  | '0' :: 'x' :: [] => none
  | '0' :: 'x' :: ds => digitsValue 16 ds 0
  | ds => digitsValue 10 ds 0

/-- An operand; a minus sign is read, so that -1 is refused as out of range and not as no number (PRESUMED, log
entry 7). -/
def operandValue (cs : List Char) : Option Int :=
  match cs with
  | '-' :: ds => (naturalValue ds).map (fun n => -(n : Int))
  | ds => (naturalValue ds).map Int.ofNat

/-- The name of a mnemonic; "mnemonics are upper case" (spec R32). -/
def mnemonicOf (cs : List Char) : Option Mnemonic :=
  if cs = ['C', 'L', 'E', 'A', 'R'] then some .clear
  else if cs = ['F', 'E', 'E', 'D'] then some .feed
  else if cs = ['R', 'E', 'A', 'D'] then some .read
  else if cs = ['R', 'E', 'A', 'D', 'R', 'A', 'W'] then some .readraw
  else if cs = ['.', 'w', 'o', 'r', 'd'] then some .word
  else if cs = ['C', 'R', 'C', '7'] then some .crc7
  else none

/-- All of the operands, or none if one of them is no number. -/
def allOperands : List (List Char) → Option (List Int)
  | [] => some []
  | p :: ps => (operandValue (trim p)).bind (fun v => (allOperands ps).map (fun vs => v :: vs))

/-- The operands of a line, separated by commas. -/
def operandsOf (cs : List Char) : Option (List Int) :=
  if cs = [] then some [] else allOperands (pieces ',' cs)

/-- One line of text (spec R32): nothing but blanks and a comment gives no word (PRESUMED, log entry 7). Of several
grounds for a refusal, the name comes before the numerals, and these before the number of operands (DESIGN CHOICE,
log entry 14). -/
def assembleTextLine (cs : List Char) : Assembled :=
  let body := trim (stripComment cs)
  let name := body.takeWhile (fun c => !isBlank c)
  let rest := trim (body.dropWhile (fun c => !isBlank c))
  if body = [] then .words []
  else match mnemonicOf name, operandsOf rest with
    | none, _ => .refused .unknownMnemonic
    | some _, none => .refused .badNumeral
    | some m, some vs => assembleLine { mnemonic := m, operands := vs }

/-- The text of a command list, "one command per line" (spec R32); a line ends at a line feed (PRESUMED, log entry 7). -/
def assembleText (cs : List Char) : Assembled :=
  joinAssembled ((pieces '\n' cs).map assembleTextLine)

end Sys2Proof.Machine
end

