-- ==== Sys2Proof/Machine/HostEntry.lean ====
section
/-! DEFINITION. The host's side of a message: the command sequence of one invocation (spec R52) and the integer entry
point with its validation (spec R53, R59). -/

namespace Sys2Proof.Machine

/-- The words of one invocation: `CLEAR; FEED b1; ...; FEED bn; READ` (spec R33, R52). -/
def messageWords (bytes : List Byte) : List Word :=
  encode .clear :: (bytes.map (fun b => encode (.feed b)) ++ [encode .read])

/-- The host offers the word and waits for its response; it does not reset in between (DEDUCED, log entry 12). -/
def sendWord (w : Word) (s : State) : Host.Outcome State Fault Refusal := step (offerCommand w s)

/-- The host sends the words one after the other. -/
def sendWords : List Word → State → Host.Outcome State Fault Refusal
  | [], s => .next s
  | w :: ws, s =>
    match sendWord w s with
    | .next t => sendWords ws t
    | .fault r => .fault r
    | .refused r => .refused r

/-- The first element outside [0, 255], if there is one (spec R53). -/
def firstOutOfRange (values : List Int) : Option Int := values.find? (fun v => !inByteRange v)

/-- What the host does with the integers before it sends anything (spec R53). -/
inductive HostPlan where
  /-- ValidationError(v): no command is sent (spec R59). -/
  | reject (v : Int)
  | send (ws : List Word)
  deriving DecidableEq, Repr

/-- The host validates every element before it sends any command (spec R53, R59). -/
def hostPlan (values : List Int) : HostPlan :=
  match firstOutOfRange values with
  | some v => .reject v
  | none => .send (messageWords (values.map (BitVec.ofInt 8)))

/-- What `HostCrc7` returns, and the block afterwards. -/
inductive HostReply where
  | result (crc : Byte) (block : State)
  | validationError (v : Int) (block : State)
  deriving DecidableEq, Repr

/-- `HostCrc7` (spec R53): the `rsp_data` of the READ's response, or ValidationError with the block untouched. -/
def hostCrc7 (values : List Int) (s : State) : Host.Outcome HostReply Fault Refusal :=
  match hostPlan values with
  | .reject v => .next (.validationError v s)
  | .send ws =>
    match sendWords ws s with
    | .next t => .next (.result t.rspData t)
    | .fault r => .fault r
    | .refused r => .refused r

end Sys2Proof.Machine
end

