-- ==== Sys2Proof/Machine/Instances.lean ====
section
/-! DEFINITION. Several instances of the block side by side (spec R69): each has its own registers and its own command
stream, and they share no state and no signal. -/

namespace Sys2Proof.Machine

/-- The instance at place `k` takes one step; the others do nothing. Where there is no instance nothing happens
(DESIGN CHOICE, log entry 9). -/
def stepInstance (k : Nat) (blocks : List State) : Host.Outcome (List State) Fault Refusal :=
  match blocks[k]? with
  | none => .next blocks
  | some b =>
    match step b with
    | .next t => .next (blocks.set k t)
    | .fault r => .fault r
    | .refused r => .refused r

end Sys2Proof.Machine
end

