-- ==== Sys2Proof/Machine/Runs.lean ====
section
/-! DEFINITION. Runs of the cycle level and what can be seen of them: the words accepted, the responses given, the
transactions completed, and a host that keeps offering a list of words. -/

namespace Sys2Proof.Machine

/-- The state after the edges with these pins, first to last. -/
def runEdges (ps : List Pins) (s : State) : State := ps.foldl (fun t p => edge p t) s

/-- Whether this edge is an accept edge: `cmd_valid`, `cmd_ready` and `!rst` (spec R10). -/
def accepts (p : Pins) (s : State) : Bool := p.cmdValid && cmdReady s p.rst && !p.rst

/-- The words accepted at these edges, in acceptance order (spec R22). -/
def acceptedWords : List Pins → State → List Word
  | [], _ => []
  | p :: ps, s =>
    if accepts p s then p.cmd :: acceptedWords ps (edge p s) else acceptedWords ps (edge p s)

/-- The responses these edges produce: `rsp_valid` is 1 in exactly the cycle after an edge with one (spec R9). -/
def responses : List Pins → State → List Response
  | [], _ => []
  | p :: ps, s =>
    if (edge p s).rspValid then response (edge p s) :: responses ps (edge p s)
    else responses ps (edge p s)

/-- One event of the transaction level: a completed command or a reset (spec R72). -/
inductive Transaction where
  | command (w : Word)
  | reset
  deriving DecidableEq, Repr

/-- The transactions these edges complete. `pending` is the word of the FEED in progress: it counts when its last bit
step is done, and a reset in the middle of it stands "in place of" its completion (spec R72; DEDUCED, log entry 13). -/
def completed : List Pins → Option Word → State → List Transaction
  | [], _, _ => []
  | p :: ps, pending, s =>
    if p.rst then .reset :: completed ps none (edge p s)
    else if s.busy then
      if (edge p s).busy then completed ps pending (edge p s)
      else (pending.map Transaction.command).toList ++ completed ps none (edge p s)
    else if p.cmdValid then
      if (edge p s).busy then completed ps (some p.cmd) (edge p s)
      else .command p.cmd :: completed ps none (edge p s)
    else completed ps none (edge p s)

/-- A host's words that are not accepted yet, and the block. -/
structure Driven where
  pending : List Word
  block   : State
  deriving DecidableEq, Repr

/-- One edge of a host that offers its words in order, each until its accept edge (spec R78). -/
def driveEdge (x : Driven) : Driven :=
  match x.pending with
  | [] => { x with block := edge Pins.quiet x.block }
  | w :: ws =>
    { pending := if accepts (Pins.offer w) x.block then ws else w :: ws
      block := edge (Pins.offer w) x.block }

/-- `n` edges of such a host. -/
def drive : Nat → Driven → Driven
  | 0, x => x
  | n + 1, x => drive n (driveEdge x)

end Sys2Proof.Machine
end

