-- ==== Sys2Proof/Machine/Transactions.lean ====
section
/-! DEFINITION. The transaction level as the spec's own function `Exec` on the CRC register alone (spec R47), apart from
the registers of the wrapper. -/

namespace Sys2Proof.Machine

/-- `Exec(crc, cmd) -> (crc', (data, err))` (spec R47). -/
def transact (crc : Byte) (w : Word) : Byte × Response :=
  match decode w with
  | .legal .clear => (0x00#8, { data := 0x00#8, err := false })
  | .legal (.feed d) => (byteStep crc d, { data := 0x00#8, err := false })
  | .legal .read => (crc, { data := stuff crc, err := false })
  | .legal .readraw => (crc, { data := crc, err := false })
  | .illegal => (crc, { data := 0x00#8, err := true })

/-- A run of accepted words through `Exec`: the register at the end and the responses in order (spec R22, R47). -/
def runExec : Byte → List Word → Byte × List Response
  | crc, [] => (crc, [])
  | crc, w :: ws =>
    let now := transact crc w
    let later := runExec now.1 ws
    (later.1, now.2 :: later.2)

/-- A run of transactions: "at the transaction level a reset is the step `crc <- 0x00` with no response" (spec R72). -/
def runTransactions : Byte → List Transaction → Byte × List Response
  | crc, [] => (crc, [])
  | _, .reset :: es => runTransactions 0x00#8 es
  | crc, .command w :: es =>
    let now := transact crc w
    let later := runTransactions now.1 es
    (later.1, now.2 :: later.2)

end Sys2Proof.Machine
end

