-- ==== Sys2Proof/Safety.lean ====
section
/-! DEFINITION. What is true of the block between its steps, in the terms the statements use. -/

namespace Sys2Proof.Machine

/-- The idle state of spec R75: no FEED in progress, and `cnt` and `dsh` at rest (spec R11). -/
abbrev State.Idle (s : State) : Prop := s.busy = false ∧ s.cnt = 0#3 ∧ s.dsh = 0x00#8

/-- "Between commands `busy == 0`, `cnt == 0` and `dsh == 0x00`" (spec R11). -/
abbrev State.RestsIdle (s : State) : Prop := s.busy = false → s.cnt = 0#3 ∧ s.dsh = 0x00#8

/-- While a FEED is in progress, the `cnt` bits already fed have been shifted out and filled with 0 (spec R6, R7). -/
abbrev State.FedBitsShiftedOut (s : State) : Prop :=
  s.busy = true → ∀ k < s.cnt.toNat, s.dsh.getLsbD k = false

/-- No response is shown while a FEED is in progress (spec R74, R76). -/
abbrev State.BusyShowsNoResponse (s : State) : Prop := s.busy = true → s.rspValid = false

/-- An error response carries the data 0x00 (spec R47, R58). -/
abbrev State.ErrorCarriesZero (s : State) : Prop := s.rspErr = true → s.rspData = 0x00#8

/-- What every step keeps, from any state that has it. -/
abbrev State.Inv (s : State) : Prop :=
  s.RestsIdle ∧ s.FedBitsShiftedOut ∧ s.BusyShowsNoResponse ∧ s.ErrorCarriesZero

end Sys2Proof.Machine
end

