-- ==== Sys2Proof/Certificates/Slice0/Obligations.lean ====
section
/-! DEFINITION. The statements for the provers, each from a rule of spec/. -/

open Sys2Proof Sys2Proof.Machine

/-! ## Encoding (30_encoding.md) -/

/-- Words written out from the bit patterns of spec R27 and the table of 95_test_vectors.md section 2.6. -/
def Obligations.WrittenOutWordsDecode : Prop :=
  decode 0b0000000100000000#16 = .legal .clear ∧
  decode 0b0000001001000000#16 = .legal (.feed 0x40#8) ∧
  decode 0b0000001011111111#16 = .legal (.feed 0xFF#8) ∧
  decode 0b0000001100000000#16 = .legal .read ∧
  decode 0b0000010000000000#16 = .legal .readraw ∧
  decode 0x0000#16 = .illegal ∧ decode 0x0101#16 = .illegal ∧ decode 0x0380#16 = .illegal ∧
  decode 0x0500#16 = .illegal ∧ decode 0x8202#16 = .illegal ∧ decode 0xFFFF#16 = .illegal

/-- Decoding an encoded command gives it back, with every operand (spec R25 to R27, R31). -/
def Obligations.DecodeOfEncode : Prop :=
  ∀ i : Instr, i.wellFormed = true →
    decode (encode i) = .legal i ∧ decodeTableWord 16 (encode i).toNat = some i

/-- A word that decodes to a command is that command's word: no two words are one command (spec R27). -/
def Obligations.LegalWordIsTheEncoding : Prop :=
  ∀ (w : Word) (i : Instr), decode w = .legal i → encode i = w

/-- Spec R25 and R31: the decoder on `OP = cmd[15:8]` and `DATA = cmd[7:0]`; a word offered while busy decodes the
same way and is not accepted. -/
def Obligations.DecodeReadsOpAndData : Prop :=
  (∀ op data : Byte, decode (op ++ data) =
    if op = 0x01#8 ∧ data = 0x00#8 then .legal .clear
    else if op = 0x02#8 then .legal (.feed data)
    else if op = 0x03#8 ∧ data = 0x00#8 then .legal .read
    else if op = 0x04#8 ∧ data = 0x00#8 then .legal .readraw
    else .illegal) ∧
  (∀ (p : Pins) (s : State), s.busy = true → accepts p s = false)

/-- Spec R27: the four legal commands are exactly the rows of the opcode map, 259 words. -/
def Obligations.LegalWordsAreTheOpcodeMap : Prop :=
  encode .clear = 0x0100#16 ∧ encode .read = 0x0300#16 ∧ encode .readraw = 0x0400#16 ∧
  (∀ d : Byte, encode (.feed d) = 0x0200#16 ||| d.setWidth 16) ∧
  (∀ w : Word, decode w = .legal .clear ↔ w &&& 0xFFFF#16 = 0x0100#16) ∧
  (∀ (w : Word) (d : Byte),
    decode w = .legal (.feed d) ↔ w &&& 0xFF00#16 = 0x0200#16 ∧ d = w.extractLsb' 0 8) ∧
  (∀ w : Word, decode w = .legal .read ↔ w &&& 0xFFFF#16 = 0x0300#16) ∧
  (∀ w : Word, decode w = .legal .readraw ↔ w &&& 0xFFFF#16 = 0x0400#16) ∧
  {w : Word | decode w ≠ .illegal}.ncard = 259

/-- Spec R28: every other word is illegal, 65277 words, and its outcome is no state change but the error response. -/
def Obligations.OtherWordsAreIllegal : Prop :=
  (∀ op data : Byte, decode (op ++ data) = .illegal ↔
    (op ≠ 0x01#8 ∧ op ≠ 0x02#8 ∧ op ≠ 0x03#8 ∧ op ≠ 0x04#8) ∨
    ((op = 0x01#8 ∨ op = 0x03#8 ∨ op = 0x04#8) ∧ data ≠ 0x00#8)) ∧
  {w : Word | decode w = .illegal}.ncard = 65277 ∧
  (∀ (w : Word) (s : State), decode w = .illegal → s.busy = false →
    sendWord w s = .next { s with rspValid := true, rspData := 0x00#8, rspErr := true }) ∧
  (∀ data : Byte, decode (0x00#8 ++ data) = .illegal)

/-! ## The datapath (40_datapath.md) -/

/-- Spec R34: the bit step. -/
def Obligations.BitStepShiftsAndTaps : Prop :=
  (∀ (crc : Byte) (b : Bool), ∀ shifted : Byte, shifted = crc.extractLsb' 0 7 ++ 0#1 →
    shifted.getLsbD 7 = crc.getLsbD 6 ∧
    bitStep crc b = (if b ^^ shifted.getLsbD 7 then shifted ^^^ 0x09#8 else shifted) ∧
    (bitStep crc b).getLsbD 7 = crc.getLsbD 6) ∧
  bitStep 0x00#8 false = 0x00#8 ∧ bitStep 0x40#8 false = 0x89#8

/-- Spec R35: bits 6..0 are a 7-bit feedback shift register, and bit 7 is the bit just shifted out. -/
def Obligations.BitStepIsASevenBitRegister : Prop :=
  ∀ (crc : Byte) (b : Bool),
    (bitStep crc b).extractLsb' 0 7 =
      (crc.extractLsb' 0 6 ++ 0#1) ^^^ (if b ^^ crc.getLsbD 6 then 0b0001001#7 else 0b0000000#7) ∧
    (bitStep crc b).getLsbD 7 = crc.getLsbD 6

/-- Spec R36: register bit 7 is inert, for the bit step, for the stuffer, and for every response of a run of words
without READRAW. -/
def Obligations.RegisterBitSevenIsInert : Prop :=
  (∀ (crc : Byte) (b : Bool), bitStep crc b = bitStep (crc &&& 0x7F#8) b) ∧
  (∀ crc : Byte, stuff crc = stuff (crc &&& 0x7F#8)) ∧
  (∀ (ws : List Word) (c c' : Byte), c &&& 0x7F#8 = c' &&& 0x7F#8 →
    (∀ w ∈ ws, decode w ≠ .legal .readraw) → (runExec c ws).2 = (runExec c' ws).2)

/-- Spec R37: the byte-boundary mask is the identity here, and the low 8 bits of a wide-storage implementation equal
this register after every step. -/
def Obligations.WideStorageKeepsTheLowByte : Prop :=
  (∀ crc : Byte, crc &&& 0xFF#8 = crc) ∧
  (∀ n : Nat, 8 ≤ n → ∀ (wide : BitVec n) (bits : List Bool),
    (bits.foldl wideBitStep wide).setWidth 8 = feedBits (wide.setWidth 8) bits) ∧
  (∀ n : Nat, 8 ≤ n → ∀ (wide : BitVec n) (bytes : List Byte),
    (bytes.foldl wideByteStep wide).setWidth 8 = feedBytes (wide.setWidth 8) bytes)

/-- Spec R38: the byte step feeds bit 7 first and bit 0 last. -/
def Obligations.ByteStepFeedsMostSignificantFirst : Prop :=
  (∀ crc d : Byte, byteStep crc d =
    bitStep (bitStep (bitStep (bitStep (bitStep (bitStep (bitStep (bitStep (crc &&& 0xFF#8)
      (d.getLsbD 7)) (d.getLsbD 6)) (d.getLsbD 5)) (d.getLsbD 4))
      (d.getLsbD 3)) (d.getLsbD 2)) (d.getLsbD 1)) (d.getLsbD 0)) ∧
  byteStep 0x00#8 0x00#8 = 0x00#8 ∧ byteStep 0x7F#8 0x00#8 = 0x70#8 ∧
  byteStep 0x80#8 0x00#8 = 0x00#8 ∧ byteStep 0x00#8 0x40#8 = 0x64#8

/-- Spec R39: after k left shifts of a copy of the byte, whatever fills the low bits, its bit 7 is `d[7-k]`; so the
shifted copy and the indexed form feed the same bits, and `dsh` is that copy with zeros filled in. -/
def Obligations.ShiftedCopyFeedsTheIndexedBits : Prop :=
  (∀ (d : Byte) (fills : List Bool), fills.length < 8 →
    topBit (fills.foldl (fun x fill => (x <<< 1) ||| (if fill then 1#8 else 0#8)) d)
      = d.getLsbD (7 - fills.length)) ∧
  (∀ (d : Byte) (k : Nat), k < 8 →
    topBit (shiftByte^[k] d) = d.getLsbD (7 - k) ∧ (inputBits d)[k]? = some (d.getLsbD (7 - k)))

/-- Spec R40 and R41: the stuffer appends the stop bit, so every result is odd. -/
def Obligations.StufferAppendsTheStopBit : Prop :=
  (∀ crc : Byte, stuff crc = ((crc <<< 1) ||| 1#8) &&& 0xFF#8 ∧ stuff crc = crc.extractLsb' 0 7 ++ 1#1) ∧
  (∀ crc : Byte, stuff crc &&& 1#8 = 1#8) ∧
  (∀ bytes : List Byte, crc7 bytes &&& 1#8 = 1#8) ∧
  stuff 0x00#8 = 0x01#8 ∧ stuff 0x80#8 = 0x01#8 ∧ stuff 0x7F#8 = 0xFF#8 ∧ stuff 0xFF#8 = 0xFF#8 ∧
  stuff 0x4A#8 = 0x95#8

/-- Spec R43: the empty message, the single zero byte, every all-zero message, and zero bytes at the start. -/
def Obligations.ZeroBytesLeaveTheInitialRegister : Prop :=
  crc7 [] = 0x01#8 ∧ crc7 [0x00#8] = 0x01#8 ∧
  (∀ n : Nat, crc7 (List.replicate n 0x00#8) = 0x01#8) ∧
  (∀ (n : Nat) (bytes : List Byte), crc7 (List.replicate n 0x00#8 ++ bytes) = crc7 bytes)

/-- Spec R44: the register carries over from byte to byte, and the result depends on byte order. -/
def Obligations.RegisterCarriesOverBetweenBytes : Prop :=
  (∀ (c : Byte) (a b : List Byte), feedBytes c (a ++ b) = feedBytes (feedBytes c a) b) ∧
  (∀ (c x : Byte) (b : List Byte), feedBytes c (x :: b) = feedBytes (byteStep c x) b) ∧
  crc7 [0x01#8, 0x02#8] = 0x33#8 ∧ crc7 [0x02#8, 0x01#8] = 0x3F#8

/-- Vectors of 95_test_vectors.md sections 2.4 and 2.5, the corrected `crc7([0x40]) == 0xC9` of 90_conflicts.md C1
among them. -/
def Obligations.MessageVectors : Prop :=
  crc7 [0x40#8] = 0xC9#8 ∧ crc7 [0xFF#8, 0x05#8] = 0x63#8 ∧
  crc7 [0x40#8, 0x00#8, 0x00#8, 0x00#8, 0x00#8] = 0x95#8 ∧
  crc7 [0x31#8, 0x32#8, 0x33#8, 0x34#8, 0x35#8, 0x36#8, 0x37#8, 0x38#8, 0x39#8] = 0xEB#8

/-- Spec R45, its linearity: the bit step, and a whole message of bits, are linear over GF(2). -/
def Obligations.DatapathIsLinear : Prop :=
  (∀ (c1 c2 : Byte) (b1 b2 : Bool),
    bitStep (c1 ^^^ c2) (b1 ^^ b2) = bitStep c1 b1 ^^^ bitStep c2 b2) ∧
  (∀ (m1 m2 : List Bool) (c1 c2 : Byte), m1.length = m2.length →
    feedBits (c1 ^^^ c2) (List.zipWith xor m1 m2) = feedBits c1 m1 ^^^ feedBits c2 m2)

open Polynomial in
/-- Spec R45: after a message of bits from register 0, bits 6..0 are the coefficients of the remainder of
M(x) · x^7 on division by G(x) = x^7 + x^3 + 1, the x^6 coefficient in bit 6. (The spec marks the identification as
general knowledge, so this is derived; what it says of `feedBits` follows from R34 alone.) -/
def Obligations.RegisterIsThePolynomialRemainder : Prop :=
  ∀ message : List Bool,
    (∑ i ∈ Finset.range 7, if (feedBits 0x00#8 message).getLsbD i then (X : (ZMod 2)[X]) ^ i else 0) =
      ((∑ i ∈ Finset.range message.length,
          if message.getD i false then (X : (ZMod 2)[X]) ^ (message.length - 1 - i) else 0) * X ^ 7)
        %ₘ (X ^ 7 + X ^ 3 + 1)

/-! ## Reset and the clock edge (10_state.md, 70_reset_and_hazards.md) -/

/-- Spec R12: the registers of the state after reset. -/
def Obligations.ResetStateHoldsTheSpecValues : Prop :=
  State.reset.crc = 0x00#8 ∧ State.reset.dsh = 0x00#8 ∧ State.reset.cnt = 0#3 ∧
  State.reset.busy = false ∧ State.reset.rspValid = false ∧ State.reset.rspData = 0x00#8 ∧
  State.reset.rspErr = false

/-- Spec R72: reset overrides whatever else happens at the edge, for one edge or many; no word is accepted, and one
offered meanwhile is accepted afterwards only if it is still offered; an abandoned FEED produces no response; on the
transaction level the reset is the step `crc <- 0x00` with no response, in place of a FEED's completion too. -/
def Obligations.ResetOverridesEverything : Prop :=
  (∀ (s : State) (ps : List Pins), ps ≠ [] → (∀ p ∈ ps, p.rst = true) →
    runEdges ps s =
      { crc := 0x00#8, dsh := 0x00#8, cnt := 0#3, busy := false, rspValid := false
        rspData := 0x00#8, rspErr := false, inputs := s.inputs } ∧
    responses ps s = [] ∧ acceptedWords ps s = [] ∧
    (∀ q : Pins, q.rst = false →
      acceptedWords [q] (runEdges ps s) = if q.cmdValid then [q.cmd] else []) ∧
    ∀ pending, completed ps pending s = List.replicate ps.length .reset) ∧
  (∀ s : State, cmdReady s true = false) ∧
  (∀ (c : Byte) (es : List Transaction), runTransactions c (.reset :: es) = runTransactions 0x00#8 es)

/-- Spec R12 and R13 (and R73): from any `PowerOnState` and with any host, one or more reset edges make the block ready, the
next offered word is accepted, and the first message needs no CLEAR. -/
def Obligations.BootFromAnyPowerOnState : Prop :=
  ∀ (power : PowerOnState) (host : List HostEvent) (ps : List Pins), ps ≠ [] → (∀ p ∈ ps, p.rst = true) →
    ∀ t, t = runEdges ps (State.powerOn power host) →
      t =
        { crc := 0x00#8, dsh := 0x00#8, cnt := 0#3, busy := false, rspValid := false
          rspData := 0x00#8, rspErr := false, inputs := host } ∧
      cmdReady t false = true ∧
      (∀ w : Word, accepts (Pins.offer w) t = true) ∧
      ∀ bytes : List Byte, ∃ u, sendWords (messageWords bytes).tail t = .next u ∧
        u.rspData = crc7 bytes ∧ u.rspErr = false

/-- Spec R74, branch by branch, with the ready signal, and the bit a FEED in progress feeds at each edge. -/
def Obligations.ClockEdgeUpdatesTheRegisters : Prop :=
  (∀ (p : Pins) (s : State),
    (p.rst = true → edge p s =
      { s with crc := 0x00#8, dsh := 0x00#8, cnt := 0#3, busy := false
               rspValid := false, rspData := 0x00#8, rspErr := false }) ∧
    (p.rst = false → s.busy = true → s.cnt = 7#3 → edge p s =
      { s with crc := bitStep s.crc (s.dsh.getLsbD 7), dsh := s.dsh <<< 1, busy := false, cnt := 0#3
               rspValid := true, rspData := 0x00#8, rspErr := false }) ∧
    (p.rst = false → s.busy = true → s.cnt ≠ 7#3 → edge p s =
      { s with crc := bitStep s.crc (s.dsh.getLsbD 7), dsh := s.dsh <<< 1, cnt := s.cnt + 1#3
               rspValid := false }) ∧
    (p.rst = false → s.busy = false → p.cmdValid = true → edge p s =
      match decode p.cmd with
      | .legal .clear =>
        { s with crc := 0x00#8, rspValid := true, rspData := 0x00#8, rspErr := false }
      | .legal (.feed d) => { s with dsh := d, cnt := 0#3, busy := true, rspValid := false }
      | .legal .read => { s with rspValid := true, rspData := stuff s.crc, rspErr := false }
      | .legal .readraw => { s with rspValid := true, rspData := s.crc, rspErr := false }
      | .illegal => { s with rspValid := true, rspData := 0x00#8, rspErr := true }) ∧
    (p.rst = false → s.busy = false → p.cmdValid = false → edge p s = { s with rspValid := false }) ∧
    cmdReady s p.rst = (!s.busy && !p.rst)) ∧
  (∀ (p : Pins) (s : State) (d : Byte) (qs : List Pins),
    p.rst = false → p.cmdValid = true → s.busy = false → decode p.cmd = .legal (.feed d) →
    (∀ q ∈ qs, q.rst = false) → qs.length < 8 →
      (edge p s).crc = s.crc ∧ (runEdges (p :: qs) s).dsh.getLsbD 7 = d.getLsbD (7 - qs.length))

/-- Spec R10: a command transfers exactly at an edge with `cmd_valid`, `cmd_ready` and `!rst`; at any other edge the
value on `cmd` has no effect; the outputs are the registers and the ready signal. -/
def Obligations.CommandTransfersAtItsAcceptEdge : Prop :=
  (∀ (p : Pins) (s : State),
    (accepts p s = true ↔ p.cmdValid = true ∧ cmdReady s p.rst = true ∧ p.rst = false) ∧
    acceptedWords [p] s = (if accepts p s then [p.cmd] else []) ∧
    (accepts p s = false → ∀ w : Word, edge { p with cmd := w } s = edge p s)) ∧
  (∀ (s : State) (rst : Bool), cmdReady s rst = (!s.busy && !rst) ∧
    outputs s rst =
      { cmdReady := !s.busy && !rst, rspValid := s.rspValid, rspData := s.rspData, rspErr := s.rspErr })

/-- Spec R9: `rsp_valid` is 1 exactly after an edge that produced a response, and at an edge without one (reset
apart, R12) the response is kept. -/
def Obligations.ResponseIsValidForOneCycle : Prop :=
  ∀ (p : Pins) (s : State),
    ((edge p s).rspValid = true ↔ p.rst = false ∧
      ((s.busy = true ∧ s.cnt = 7#3) ∨
       (s.busy = false ∧ p.cmdValid = true ∧ ∀ d, decode p.cmd ≠ .legal (.feed d)))) ∧
    (p.rst = false → (edge p s).rspValid = false →
      (edge p s).rspData = s.rspData ∧ (edge p s).rspErr = s.rspErr) ∧
    (∀ (data : Byte) (err : Bool), respond data err s =
      { s with rspData := data, rspErr := err, rspValid := true })

/-- Spec R5: only the bit step, CLEAR and reset write the CRC register. -/
def Obligations.OnlyBitStepClearAndResetWriteCrc : Prop :=
  ∀ (p : Pins) (s : State), (edge p s).crc ≠ s.crc →
    (p.rst = true ∧ (edge p s).crc = 0x00#8) ∨
    (p.rst = false ∧ s.busy = true ∧ (edge p s).crc = bitStep s.crc (s.dsh.getLsbD 7)) ∨
    (accepts p s = true ∧ decode p.cmd = .legal .clear ∧ (edge p s).crc = 0x00#8)

/-- Spec R6, R7, R11 and R80: between commands nothing but `crc` matters: two blocks with no FEED in progress and the
same `crc`, whatever their other registers hold, answer every host alike and end with the same `crc`. -/
def Obligations.OnlyCrcMattersBetweenCommands : Prop :=
  ∀ (ps : List Pins) (s t : State), s.busy = false → t.busy = false → s.crc = t.crc →
    responses ps s = responses ps t ∧ acceptedWords ps s = acceptedWords ps t ∧
    (runEdges ps s).crc = (runEdges ps t).crc ∧ (runEdges ps s).busy = (runEdges ps t).busy

/-! ## The two levels agree (00_scope.md R3, R75) and timing (R76, R77) -/

/-- Spec R75: the cycle level refines the transaction level: a word that is no FEED at its accept edge, a FEED bit by
bit to its eighth edge, and every run of accepted words. -/
def Obligations.CycleLevelRefinesTransactionLevel : Prop :=
  (∀ (s : State) (p : Pins), s.Idle → p.rst = false → p.cmdValid = true →
    ((∀ d, decode p.cmd ≠ .legal (.feed d)) →
      (edge p s).Idle ∧ (edge p s).rspValid = true ∧
      ((edge p s).crc, response (edge p s)) = transact s.crc p.cmd) ∧
    (∀ (d : Byte) (qs : List Pins), decode p.cmd = .legal (.feed d) → (∀ q ∈ qs, q.rst = false) →
      ∀ t, t = runEdges (p :: qs) s →
        (qs.length ≤ 8 → t.crc = feedBits s.crc ((inputBits d).take qs.length)) ∧
        (qs.length < 8 → t.busy = true ∧ t.rspValid = false) ∧
        (qs.length = 8 → t.Idle ∧ t.rspValid = true ∧ t.crc = byteStep s.crc d ∧
          response t = { data := 0x00#8, err := false } ∧
          (t.crc, response t) = transact s.crc p.cmd))) ∧
  (∀ (s : State) (ps : List Pins), s.Idle → (∀ p ∈ ps, p.rst = false) → (runEdges ps s).busy = false →
    runExec s.crc (acceptedWords ps s) = ((runEdges ps s).crc, responses ps s))

/-- Spec R22, R72 and R75 together, for a host that does anything at any edge, resets in the middle of a FEED
included: from an idle state to a state with no FEED in progress, the responses and the register are those of the
completed transactions, in order. -/
def Obligations.EveryRunIsItsCompletedTransactions : Prop :=
  ∀ (ps : List Pins) (s : State), s.Idle → (runEdges ps s).busy = false →
    runTransactions s.crc (completed ps none s) = ((runEdges ps s).crc, responses ps s)

/-- Spec R3, R20 and R78: one atomic step on a command word is, in every state, the cycle-level run in which the host
offers the word until it is accepted and then waits for its response. -/
def Obligations.CommandStepIsItsClockEdges : Prop :=
  ∀ (s : State) (w : Word) (rest : List HostEvent), s.inputs = .command w :: rest →
    step s = .next (runEdges
      (List.replicate ((if s.busy then 8 - s.cnt.toNat else 0) + 1) (Pins.offer w) ++
        List.replicate (match decode w with | .legal (.feed _) => 8 | _ => 0) Pins.quiet)
      { s with inputs := rest })

/-- Spec R8 and R76: a FEED in progress keeps the block busy for exactly the rest of its eight bit steps, whatever is
offered meanwhile, and answers (0x00, 0) at the last. -/
def Obligations.FeedEndsAfterItsEighthBit : Prop :=
  ∀ (s : State) (ps : List Pins), s.busy = true → (∀ p ∈ ps, p.rst = false) →
    (ps.length < 8 - s.cnt.toNat →
      (runEdges ps s).busy = true ∧ (runEdges ps s).cnt.toNat = s.cnt.toNat + ps.length) ∧
    (ps.length = 8 - s.cnt.toNat →
      (runEdges ps s).busy = false ∧ (runEdges ps s).cnt = 0#3 ∧ (runEdges ps s).rspValid = true ∧
      response (runEdges ps s) = { data := 0x00#8, err := false })

/-- Spec R76: the response edge, the ready cycles and the earliest next accept edge of each command. -/
def Obligations.CommandTiming : Prop :=
  (∀ (p : Pins) (s : State), p.rst = false → p.cmdValid = true → s.busy = false →
    ((∀ d, decode p.cmd ≠ .legal (.feed d)) →
      (edge p s).rspValid = true ∧ cmdReady (edge p s) false = true ∧
      (edge Pins.quiet (edge p s)).rspValid = false ∧
      ∀ w : Word, accepts (Pins.offer w) (edge p s) = true) ∧
    (∀ (d : Byte) (qs : List Pins), decode p.cmd = .legal (.feed d) → (∀ q ∈ qs, q.rst = false) →
      (qs.length < 8 → (runEdges (p :: qs) s).rspValid = false ∧
        cmdReady (runEdges (p :: qs) s) false = false) ∧
      (qs.length = 8 → (runEdges (p :: qs) s).rspValid = true ∧
        cmdReady (runEdges (p :: qs) s) false = true ∧
        (edge Pins.quiet (runEdges (p :: qs) s)).rspValid = false ∧
        ∀ w : Word, accepts (Pins.offer w) (runEdges (p :: qs) s) = true))) ∧
  (∀ (p q : Pins) (s : State), p.rst = true → q.rst = false → q.cmdValid = true →
    (edge p s).crc = 0x00#8 ∧ (edge p s).busy = false ∧ accepts q (edge p s) = true)

/-- Spec R77: a message of N bytes sent back to back takes 9N + 2 edges, and the READ's data is there after the last,
edge 9N + 1 counting from 0; while busy the block takes one input bit per edge. -/
def Obligations.MessageTakesNineEdgesPerByte : Prop :=
  (∀ (bytes : List Byte) (s : State), s.busy = false →
    ∀ x : Driven, x = { pending := messageWords bytes, block := s } →
      (drive (9 * bytes.length + 1) x).pending = [encode .read] ∧
      (drive (9 * bytes.length + 2) x).pending = [] ∧
      (drive (9 * bytes.length + 2) x).block.rspData = crc7 bytes ∧
      (drive (9 * bytes.length + 2) x).block.rspValid = true ∧
      (drive (9 * bytes.length + 2) x).block.rspErr = false) ∧
  (∀ (p : Pins) (s : State), p.rst = false → s.busy = true →
    (edge p s).crc = bitStep s.crc (s.dsh.getLsbD 7))

/-- Spec R20 and R78: a word offered while the block is not ready is not taken, and what is offered then has no
effect; the block takes what is on `cmd` at the accept edge. -/
def Obligations.WaitingWordIsNotTaken : Prop :=
  ∀ (s : State) (ps qs : List Pins), s.busy = true →
    (∀ p ∈ ps, p.rst = false) → (∀ q ∈ qs, q.rst = false) →
    ps.length = qs.length → ps.length ≤ 8 - s.cnt.toNat →
      acceptedWords ps s = [] ∧ runEdges ps s = runEdges qs s ∧
      (ps.length = 8 - s.cnt.toNat → ∀ w : Word, acceptedWords (ps ++ [Pins.offer w]) s = [w])

/-- Spec R79: `rsp_valid` lasts one cycle, and the response is held until the next response edge, which can be the
very next edge. -/
def Obligations.ResponseIsHeldUntilTheNext : Prop :=
  (∀ (ps : List Pins) (s : State), (∀ p ∈ ps, p.rst = false) → responses ps s = [] →
    (runEdges ps s).rspData = s.rspData ∧ (runEdges ps s).rspErr = s.rspErr) ∧
  (∀ s : State, s.busy = false →
    (edge Pins.quiet s).rspValid = false ∧
    (edge (Pins.offer 0x0300#16) s).rspData = stuff s.crc ∧
    (runEdges [Pins.offer 0x0300#16, Pins.offer 0x0100#16] s).rspData = 0x00#8)

/-! ## Invariants -/

/-- The invariant holds after reset. -/
def Obligations.InvariantHoldsAtReset : Prop := State.reset.Inv

/-- From every state with the invariant, a step gives a state with it: the block rests with `cnt` and `dsh` at 0,
fed bits are shifted out, no response shows while busy, an error carries 0x00 (spec R6, R7, R11, R74, R58). -/
def Obligations.StepKeepsTheInvariant : Prop :=
  ∀ s t : State, s.Inv → step s = .next t → t.Inv

/-- Spec R11: between commands the block is idle: a command step from a state with the invariant ends idle, with a
response shown and the host's next event up. -/
def Obligations.CommandStepEndsIdle : Prop :=
  ∀ (s : State) (w : Word) (rest : List HostEvent), s.Inv → s.inputs = .command w :: rest →
    ∃ t, step s = .next t ∧ t.Idle ∧ t.rspValid = true ∧ t.inputs = rest

/-! ## The commands (41_commands.md) -/

/-- A step runs the decoded command: on the host's next word, after the wait of a busy block; an idle block does not
wait; and an event of the cycle level is one edge. (How the host's events reach the step is log entries 1 to 3.) -/
def Obligations.StepRunsTheDecodedCommand : Prop :=
  (∀ (s : State) (w : Word) (i : Instr) (rest : List HostEvent),
    s.inputs = .command w :: rest → decode w = .legal i →
      step s = exec i (waitReady w { s with inputs := rest }) ∧
      (s.busy = false → step s = exec i { s with inputs := rest })) ∧
  (∀ (s : State) (i : Instr), s.busy = false →
    step (s.withFetchWord 16 (encode i).toNat) = exec i s) ∧
  (∀ (s : State) (p : Pins) (rest : List HostEvent), s.inputs = .edge p :: rest →
    step s = .next (edge p { s with inputs := rest }))

/-- No step stops: every state has a next state (spec R61, R64). -/
def Obligations.NoStepStops : Prop := ∀ s : State, ∃ t, step s = .next t

/-- Spec R47: the transaction of every accepted word, legal or not, reading nothing but `crc` and the word. -/
def Obligations.ExecDispatchesOnTheWord : Prop :=
  ∀ (s : State) (w : Word), s.busy = false →
    ∃ t, sendWord w s = .next t ∧ t.rspValid = true ∧ t.busy = false ∧ t.inputs = s.inputs ∧
      (t.crc, t.rspData, t.rspErr) =
        match decode w with
        | .legal .clear => (0x00#8, 0x00#8, false)
        | .legal (.feed d) => (byteStep s.crc d, 0x00#8, false)
        | .legal .read => (s.crc, stuff s.crc, false)
        | .legal .readraw => (s.crc, s.crc, false)
        | .illegal => (s.crc, 0x00#8, true)

/-- Spec R48: CLEAR, whole, with all it leaves unchanged. -/
def Obligations.ClearSetsTheInitialValue : Prop :=
  (∀ s : State, exec .clear s = .next
    { crc := 0x00#8, dsh := s.dsh, cnt := s.cnt, busy := s.busy, rspValid := true
      rspData := 0x00#8, rspErr := false, inputs := s.inputs }) ∧
  encode .clear = 0x0100#16 ∧
  (∀ data : Byte, data ≠ 0x00#8 → decode (0x01#8 ++ data) = .illegal) ∧
  (∀ s t : State, exec .clear s = .next t → exec .clear t = .next t) ∧
  (∃ t, exec .clear State.reset = .next t ∧ t.crc = State.reset.crc)

/-- FEED, whole: its transaction with all it leaves unchanged, its encoding, its corner cases, and its nine clock edges.
Derived from spec R49, R74 and R11. The first clause is about every state: that `dsh`, `cnt` and `busy` end at 0 is
DEDUCED, and that `exec` gives this transaction in a busy state too, in which no command is accepted, is the model's
DESIGN CHOICE (both log entry 6). -/
def Obligations.FeedTakesOneByte : Prop :=
  (∀ (d : Byte) (s : State), exec (.feed d) s = .next
    { crc := byteStep s.crc d, dsh := 0x00#8, cnt := 0#3, busy := false, rspValid := true
      rspData := 0x00#8, rspErr := false, inputs := s.inputs }) ∧
  (∀ d : Byte, encode (.feed d) = 0x02#8 ++ d ∧ decode (0x02#8 ++ d) = .legal (.feed d)) ∧
  byteStep 0x00#8 0x00#8 = 0x00#8 ∧ byteStep 0x7F#8 0x00#8 = 0x70#8 ∧ byteStep 0x00#8 0x40#8 = 0x64#8 ∧
  (∀ crc d : Byte, byteStep (crc &&& 0x7F#8) d = byteStep crc d ∧
    (byteStep crc d).getLsbD 7 = (feedBits crc ((inputBits d).take 7)).getLsbD 6) ∧
  (∀ (d : Byte) (s : State) (qs : List Pins), s.busy = false → (∀ q ∈ qs, q.rst = false) →
    (qs.length < 8 → (runEdges (Pins.offer (encode (.feed d)) :: qs) s).busy = true) ∧
    (qs.length = 8 → exec (.feed d) s = .next (runEdges (Pins.offer (encode (.feed d)) :: qs) s)))

/-- Spec R50: READ, whole, with all it leaves unchanged, and the layout of the result byte (R16). -/
def Obligations.ReadAnswersTheStuffedRegister : Prop :=
  (∀ s : State, exec .read s = .next
    { crc := s.crc, dsh := s.dsh, cnt := s.cnt, busy := s.busy, rspValid := true
      rspData := stuff s.crc, rspErr := false, inputs := s.inputs }) ∧
  encode .read = 0x0300#16 ∧
  (∀ data : Byte, data ≠ 0x00#8 → decode (0x03#8 ++ data) = .illegal) ∧
  stuff 0x00#8 = 0x01#8 ∧ stuff 0x4A#8 = 0x95#8 ∧
  (∀ s t : State, exec .read s = .next t → exec .read t = .next t) ∧
  (∀ crc : Byte, (stuff crc).extractLsb' 1 7 = crc.extractLsb' 0 7 ∧ (stuff crc).getLsbD 0 = true ∧
    stuff (crc &&& 0x7F#8) = stuff crc)

/-- Spec R51: READRAW, whole, with all it leaves unchanged: the only command whose response depends on `crc[7]`. -/
def Obligations.ReadrawAnswersTheRegister : Prop :=
  (∀ s : State, exec .readraw s = .next
    { crc := s.crc, dsh := s.dsh, cnt := s.cnt, busy := s.busy, rspValid := true
      rspData := s.crc, rspErr := false, inputs := s.inputs }) ∧
  encode .readraw = 0x0400#16 ∧
  (∀ data : Byte, data ≠ 0x00#8 → decode (0x04#8 ++ data) = .illegal) ∧
  feedBytes 0x00#8 [0x01#8, 0x02#8] = 0x99#8 ∧ stuff 0x99#8 = 0x33#8 ∧
  feedBytes 0x00#8 [0x40#8] = 0x64#8 ∧
  (∀ (w : Word) (c c' : Byte), decode w ≠ .legal .readraw → c &&& 0x7F#8 = c' &&& 0x7F#8 →
    (transact c w).2 = (transact c' w).2)

/-- Spec R58 and R65: IllegalCommand leaves `crc`, `dsh`, `cnt` and `busy` unchanged, answers (0x00, 1) with READ's
latency, and the block stays ready; the next response overwrites the error; a second illegal word does the same. -/
def Obligations.IllegalWordAnswersAnError : Prop :=
  ∀ (w : Word) (s : State), decode w = .illegal → s.busy = false →
    ∀ t : State, t = { crc := s.crc, dsh := s.dsh, cnt := s.cnt, busy := s.busy, rspValid := true
                       rspData := 0x00#8, rspErr := true, inputs := s.inputs } →
      sendWord w s = .next t ∧ edge (Pins.offer w) s = t ∧ cmdReady t false = true ∧
      (∀ v : Word, decode v = .illegal → sendWord v t = .next t) ∧
      (∀ i : Instr, ∃ u, sendWord (encode i) t = .next u ∧ u.rspErr = false)

/-- Spec R61: no command raises an error. -/
def Obligations.CommandsRaiseNoError : Prop :=
  ∀ (i : Instr) (s : State), ∃ t, exec i s = .next t ∧ t.rspValid = true ∧ t.rspErr = false

/-- Spec R21: READ, READRAW and illegal words have no side effect on the four registers, and any number of them gives
the same READ and READRAW; CLEAR is idempotent; FEED is not. -/
def Obligations.ReadsHaveNoSideEffect : Prop :=
  (∀ (ws : List Word) (s : State), s.busy = false →
    (∀ w ∈ ws, decode w = .legal .read ∨ decode w = .legal .readraw ∨ decode w = .illegal) →
    ∃ t, sendWords ws s = .next t ∧
      t.crc = s.crc ∧ t.dsh = s.dsh ∧ t.cnt = s.cnt ∧ t.busy = s.busy ∧
      (∃ u, sendWord (encode .read) t = .next u ∧ u.rspData = stuff s.crc) ∧
      (∃ u, sendWord (encode .readraw) t = .next u ∧ u.rspData = s.crc)) ∧
  (∀ s t : State, exec .clear s = .next t → exec .clear t = .next t) ∧
  (∃ (d : Byte) (s t u : State), exec (.feed d) s = .next t ∧ exec (.feed d) t = .next u ∧ u.crc ≠ t.crc)

/-- Spec R42 and R52: one invocation: the command sequence computes `crc7`, whatever the block held before, a FEED in
progress included; a reset may stand in for the CLEAR; FEEDs without a CLEAR continue the previous message. -/
def Obligations.MessageCommandsComputeCrc7 : Prop :=
  (∀ bytes : List Byte, crc7 bytes = stuff (bytes.foldl byteStep 0x00#8)) ∧
  (∀ (bytes : List Byte) (s : State), ∃ t, sendWords (messageWords bytes) s = .next t ∧
    t.rspData = crc7 bytes ∧ t.rspErr = false ∧ t.crc = feedBytes 0x00#8 bytes ∧ t.busy = false) ∧
  (∀ (bytes : List Byte) (s : State) (p : Pins), p.rst = true →
    ∃ t, sendWords (messageWords bytes).tail (edge p s) = .next t ∧
      t.rspData = crc7 bytes ∧ t.rspErr = false) ∧
  (∀ (bytes : List Byte) (s : State), s.busy = false →
    ∃ t, sendWords (bytes.map (fun b => encode (.feed b))) s = .next t ∧ t.crc = feedBytes s.crc bytes)

/-! ## The host (R53, R59, R32, R33) and several blocks (R69) -/

/-- Spec R53 and R59: the host's entry point raises ValidationError on the first element outside [0, 255], with the
block untouched; otherwise it returns the message's `crc7`. -/
def Obligations.HostValidatesBeforeItSends : Prop :=
  (∀ (before after : List Int) (v : Int) (s : State),
    (∀ x ∈ before, 0 ≤ x ∧ x ≤ 255) → (v < 0 ∨ v > 255) →
      hostPlan (before ++ v :: after) = .reject v ∧
      hostCrc7 (before ++ v :: after) s = .next (.validationError v s)) ∧
  (∀ (values : List Int) (s : State), (∀ x ∈ values, 0 ≤ x ∧ x ≤ 255) →
    hostPlan values = .send (messageWords (values.map (BitVec.ofInt 8))) ∧
    ∃ t, hostCrc7 values s = .next (.result (crc7 (values.map (BitVec.ofInt 8))) t)) ∧
  (∀ s : State, hostCrc7 [256] s = .next (.validationError 256 s) ∧
    hostCrc7 [-1] s = .next (.validationError (-1) s))

/-- What each line encodes as and what is refused, the comment and the line break, and a FEED's operand written in
hexadecimal or decimal. Derived from spec R32. The clauses on text rest in part on what the model presumes (log entry 7:
blanks, the line feed, lower-case hexadecimal digits, the refusal of an unknown name such as `clear`), and what a
refused line does to the list is the model's DESIGN CHOICE (log entry 14). -/
def Obligations.AssemblerEncodesLines : Prop :=
  assembleLine ⟨.clear, []⟩ = .words [0x0100#16] ∧ assembleLine ⟨.read, []⟩ = .words [0x0300#16] ∧
  assembleLine ⟨.readraw, []⟩ = .words [0x0400#16] ∧
  (∀ d : Byte, assembleLine ⟨.feed, [(d.toNat : Int)]⟩ = .words [0x0200#16 ||| d.setWidth 16]) ∧
  (∀ w : Word, assembleLine ⟨.word, [(w.toNat : Int)]⟩ = .words [w]) ∧
  (∀ v : Int, v < 0 ∨ v > 255 → assembleLine ⟨.feed, [v]⟩ = .refused (.validationError v)) ∧
  (∀ (m : Mnemonic) (v : Int) (vs : List Int), m = .clear ∨ m = .read ∨ m = .readraw →
    assembleLine ⟨m, v :: vs⟩ = .refused .operandCount) ∧
  (∀ line comment : List Char, ';' ∉ line →
    assembleTextLine (line ++ ';' :: comment) = assembleTextLine line) ∧
  (∀ line rest : List Char, '\n' ∉ line →
    assembleText (line ++ '\n' :: rest) = (assembleTextLine line).append (assembleText rest)) ∧
  assembleTextLine ['C', 'L', 'E', 'A', 'R'] = .words [0x0100#16] ∧
  assembleTextLine ['R', 'E', 'A', 'D'] = .words [0x0300#16] ∧
  assembleTextLine ['R', 'E', 'A', 'D', 'R', 'A', 'W'] = .words [0x0400#16] ∧
  assembleTextLine ['c', 'l', 'e', 'a', 'r'] = .refused .unknownMnemonic ∧
  assembleTextLine ['.', 'w', 'o', 'r', 'd', ' ', '0', 'x', '0', '3', '0', '1'] = .words [0x0301#16] ∧
  (∀ d : Byte,
    assembleTextLine (['F', 'E', 'E', 'D', ' '] ++ Nat.toDigits 10 d.toNat) = .words [encode (.feed d)] ∧
    assembleTextLine (['F', 'E', 'E', 'D', ' ', '0', 'x'] ++ Nat.toDigits 16 d.toNat) =
      .words [encode (.feed d)])

/-- Spec R33: `CRC7 b1, ..., bn` expands to CLEAR, the FEEDs and READ; the response to its READ is the message's
`crc7`, and with no operand it is 0x01. -/
def Obligations.Crc7PseudoExpands : Prop :=
  (∀ bytes : List Byte,
    assembleLine ⟨.crc7, bytes.map (fun b => (b.toNat : Int))⟩ =
      .words (0x0100#16 :: (bytes.map (fun b => 0x0200#16 ||| b.setWidth 16) ++ [0x0300#16]))) ∧
  (∀ (bytes : List Byte) (ws : List Word) (s : State),
    assembleLine ⟨.crc7, bytes.map (fun b => (b.toNat : Int))⟩ = .words ws →
      ∃ t, sendWords ws s = .next t ∧ t.rspData = crc7 bytes ∧ t.rspErr = false) ∧
  assembleLine ⟨.crc7, []⟩ = .words [0x0100#16, 0x0300#16] ∧ crc7 [] = 0x01#8

/-- Spec R69: several blocks share nothing: a step of one leaves every other as it was, and steps of two blocks give
the same in either order. -/
def Obligations.InstancesAreIndependent : Prop :=
  (∀ (blocks after : List State) (k j : Nat), stepInstance k blocks = .next after → j ≠ k →
    after[j]? = blocks[j]?) ∧
  (∀ (blocks a ab b ba : List State) (k j : Nat), k ≠ j →
    stepInstance k blocks = .next a → stepInstance j a = .next ab →
    stepInstance j blocks = .next b → stepInstance k b = .next ba → ab = ba) ∧
  (∀ (blocks : List State) (k : Nat) (b t : State), blocks[k]? = some b → step b = .next t →
    stepInstance k blocks = .next (blocks.set k t))
end

