-- ==== Sys2Proof/Laws/Decode.lean ====
section
/-! SUPPORT. The fields of a word, and the cases of the decoder: what proofs about encodings cite. -/

namespace Sys2Proof

/-- OP of a word written as its two fields. -/
@[simp] theorem opOf_append (op data : Byte) : opOf (op ++ data) = op := by
  apply BitVec.eq_of_getLsbD_eq
  intro i hi
  simp only [opOf, BitVec.getLsbD_extractLsb', hi, decide_true, Bool.true_and]
  exact (BitVec.getLsbD_append (x := op) (y := data) (i := 8 + i)).trans (by simp)

/-- DATA of a word written as its two fields. -/
@[simp] theorem dataOf_append (op data : Byte) : dataOf (op ++ data) = data := by
  apply BitVec.eq_of_getLsbD_eq
  intro i hi
  simp only [dataOf, BitVec.getLsbD_extractLsb', hi, decide_true, Bool.true_and]
  exact (BitVec.getLsbD_append (x := op) (y := data) (i := 0 + i)).trans (by simp [hi])

/-- A word is its two fields (spec R25). -/
theorem opOf_append_dataOf (w : Word) : opOf w ++ dataOf w = w := by
  apply BitVec.eq_of_getLsbD_eq
  intro i hi
  refine (BitVec.getLsbD_append (x := opOf w) (y := dataOf w) (i := i)).trans ?_
  simp only [opOf, dataOf, BitVec.getLsbD_extractLsb']
  by_cases h : i < 8
  · simp [h]
  · have h8 : i - 8 < 8 := by omega
    have hi8 : 8 + (i - 8) = i := by omega
    simp [h, h8, hi8]

/-- The five ways a word decodes, with what each says of the fields. -/
theorem decode_cases (w : Word) :
    (decode w = .legal .clear ∧ opOf w = 0x01#8 ∧ dataOf w = 0x00#8) ∨
    (decode w = .legal (.feed (dataOf w)) ∧ opOf w = 0x02#8) ∨
    (decode w = .legal .read ∧ opOf w = 0x03#8 ∧ dataOf w = 0x00#8) ∨
    (decode w = .legal .readraw ∧ opOf w = 0x04#8 ∧ dataOf w = 0x00#8) ∨
    (decode w = .illegal ∧ opOf w ≠ 0x02#8 ∧
      (dataOf w = 0x00#8 → opOf w ≠ 0x01#8 ∧ opOf w ≠ 0x03#8 ∧ opOf w ≠ 0x04#8)) := by
  unfold decode
  split_ifs with h1 h2 h3 h4
  · exact .inl ⟨rfl, h1⟩
  · exact .inr (.inl ⟨rfl, h2⟩)
  · exact .inr (.inr (.inl ⟨rfl, h3⟩))
  · exact .inr (.inr (.inr (.inl ⟨rfl, h4⟩)))
  · exact .inr (.inr (.inr (.inr ⟨rfl, h2, fun h => ⟨fun k => h1 ⟨k, h⟩, fun k => h3 ⟨k, h⟩, fun k => h4 ⟨k, h⟩⟩⟩)))

end Sys2Proof
end

