-- ==== Sys2Proof/Laws/State.lean ====
section
/-! SUPPORT. One lemma per field per named update of the state, true by rfl, so that no later proof unfolds a record
update. -/

namespace Sys2Proof.Machine

variable (s : State)

@[simp] theorem respond_crc (d : Byte) (e : Bool) : (respond d e s).crc = s.crc := rfl
@[simp] theorem respond_dsh (d : Byte) (e : Bool) : (respond d e s).dsh = s.dsh := rfl
@[simp] theorem respond_cnt (d : Byte) (e : Bool) : (respond d e s).cnt = s.cnt := rfl
@[simp] theorem respond_busy (d : Byte) (e : Bool) : (respond d e s).busy = s.busy := rfl
@[simp] theorem respond_rspValid (d : Byte) (e : Bool) : (respond d e s).rspValid = true := rfl
@[simp] theorem respond_rspData (d : Byte) (e : Bool) : (respond d e s).rspData = d := rfl
@[simp] theorem respond_rspErr (d : Byte) (e : Bool) : (respond d e s).rspErr = e := rfl
@[simp] theorem respond_inputs (d : Byte) (e : Bool) : (respond d e s).inputs = s.inputs := rfl

@[simp] theorem noResponse_crc : (noResponse s).crc = s.crc := rfl
@[simp] theorem noResponse_dsh : (noResponse s).dsh = s.dsh := rfl
@[simp] theorem noResponse_cnt : (noResponse s).cnt = s.cnt := rfl
@[simp] theorem noResponse_busy : (noResponse s).busy = s.busy := rfl
@[simp] theorem noResponse_rspValid : (noResponse s).rspValid = false := rfl
@[simp] theorem noResponse_rspData : (noResponse s).rspData = s.rspData := rfl
@[simp] theorem noResponse_rspErr : (noResponse s).rspErr = s.rspErr := rfl
@[simp] theorem noResponse_inputs : (noResponse s).inputs = s.inputs := rfl

@[simp] theorem resetRegisters_crc : (resetRegisters s).crc = 0x00#8 := rfl
@[simp] theorem resetRegisters_dsh : (resetRegisters s).dsh = 0x00#8 := rfl
@[simp] theorem resetRegisters_cnt : (resetRegisters s).cnt = 0#3 := rfl
@[simp] theorem resetRegisters_busy : (resetRegisters s).busy = false := rfl
@[simp] theorem resetRegisters_rspValid : (resetRegisters s).rspValid = false := rfl
@[simp] theorem resetRegisters_rspData : (resetRegisters s).rspData = 0x00#8 := rfl
@[simp] theorem resetRegisters_rspErr : (resetRegisters s).rspErr = false := rfl
@[simp] theorem resetRegisters_inputs : (resetRegisters s).inputs = s.inputs := rfl

@[simp] theorem clearCrc_crc : (clearCrc s).crc = initialCrc := rfl
@[simp] theorem clearCrc_dsh : (clearCrc s).dsh = s.dsh := rfl
@[simp] theorem clearCrc_cnt : (clearCrc s).cnt = s.cnt := rfl
@[simp] theorem clearCrc_busy : (clearCrc s).busy = s.busy := rfl
@[simp] theorem clearCrc_rspValid : (clearCrc s).rspValid = s.rspValid := rfl
@[simp] theorem clearCrc_rspData : (clearCrc s).rspData = s.rspData := rfl
@[simp] theorem clearCrc_rspErr : (clearCrc s).rspErr = s.rspErr := rfl
@[simp] theorem clearCrc_inputs : (clearCrc s).inputs = s.inputs := rfl

@[simp] theorem illegalCommand_crc : (illegalCommand s).crc = s.crc := rfl
@[simp] theorem illegalCommand_dsh : (illegalCommand s).dsh = s.dsh := rfl
@[simp] theorem illegalCommand_cnt : (illegalCommand s).cnt = s.cnt := rfl
@[simp] theorem illegalCommand_busy : (illegalCommand s).busy = s.busy := rfl
@[simp] theorem illegalCommand_rspValid : (illegalCommand s).rspValid = true := rfl
@[simp] theorem illegalCommand_rspData : (illegalCommand s).rspData = 0x00#8 := rfl
@[simp] theorem illegalCommand_rspErr : (illegalCommand s).rspErr = true := rfl
@[simp] theorem illegalCommand_inputs : (illegalCommand s).inputs = s.inputs := rfl

@[simp] theorem loadByte_crc (d : Byte) : (loadByte d s).crc = s.crc := rfl
@[simp] theorem loadByte_dsh (d : Byte) : (loadByte d s).dsh = d := rfl
@[simp] theorem loadByte_cnt (d : Byte) : (loadByte d s).cnt = 0#3 := rfl
@[simp] theorem loadByte_busy (d : Byte) : (loadByte d s).busy = true := rfl
@[simp] theorem loadByte_rspValid (d : Byte) : (loadByte d s).rspValid = s.rspValid := rfl
@[simp] theorem loadByte_rspData (d : Byte) : (loadByte d s).rspData = s.rspData := rfl
@[simp] theorem loadByte_rspErr (d : Byte) : (loadByte d s).rspErr = s.rspErr := rfl
@[simp] theorem loadByte_inputs (d : Byte) : (loadByte d s).inputs = s.inputs := rfl

@[simp] theorem feedByte_crc (d : Byte) : (feedByte d s).crc = byteStep s.crc d := rfl
@[simp] theorem feedByte_dsh (d : Byte) : (feedByte d s).dsh = 0x00#8 := rfl
@[simp] theorem feedByte_cnt (d : Byte) : (feedByte d s).cnt = 0#3 := rfl
@[simp] theorem feedByte_busy (d : Byte) : (feedByte d s).busy = false := rfl
@[simp] theorem feedByte_rspValid (d : Byte) : (feedByte d s).rspValid = s.rspValid := rfl
@[simp] theorem feedByte_rspData (d : Byte) : (feedByte d s).rspData = s.rspData := rfl
@[simp] theorem feedByte_rspErr (d : Byte) : (feedByte d s).rspErr = s.rspErr := rfl
@[simp] theorem feedByte_inputs (d : Byte) : (feedByte d s).inputs = s.inputs := rfl

@[simp] theorem stepBit_crc : (stepBit s).crc = bitStep s.crc (topBit s.dsh) := rfl
@[simp] theorem stepBit_dsh : (stepBit s).dsh = shiftByte s.dsh := rfl
@[simp] theorem stepBit_cnt : (stepBit s).cnt = s.cnt := rfl
@[simp] theorem stepBit_busy : (stepBit s).busy = s.busy := rfl
@[simp] theorem stepBit_rspValid : (stepBit s).rspValid = s.rspValid := rfl
@[simp] theorem stepBit_rspData : (stepBit s).rspData = s.rspData := rfl
@[simp] theorem stepBit_rspErr : (stepBit s).rspErr = s.rspErr := rfl
@[simp] theorem stepBit_inputs : (stepBit s).inputs = s.inputs := rfl

@[simp] theorem offerCommand_crc (w : Word) : (offerCommand w s).crc = s.crc := rfl
@[simp] theorem offerCommand_dsh (w : Word) : (offerCommand w s).dsh = s.dsh := rfl
@[simp] theorem offerCommand_cnt (w : Word) : (offerCommand w s).cnt = s.cnt := rfl
@[simp] theorem offerCommand_busy (w : Word) : (offerCommand w s).busy = s.busy := rfl
@[simp] theorem offerCommand_rspValid (w : Word) : (offerCommand w s).rspValid = s.rspValid := rfl
@[simp] theorem offerCommand_rspData (w : Word) : (offerCommand w s).rspData = s.rspData := rfl
@[simp] theorem offerCommand_rspErr (w : Word) : (offerCommand w s).rspErr = s.rspErr := rfl
@[simp] theorem offerCommand_inputs (w : Word) : (offerCommand w s).inputs = .command w :: s.inputs := rfl

@[simp] theorem offerEdge_crc (p : Pins) : (offerEdge p s).crc = s.crc := rfl
@[simp] theorem offerEdge_dsh (p : Pins) : (offerEdge p s).dsh = s.dsh := rfl
@[simp] theorem offerEdge_cnt (p : Pins) : (offerEdge p s).cnt = s.cnt := rfl
@[simp] theorem offerEdge_busy (p : Pins) : (offerEdge p s).busy = s.busy := rfl
@[simp] theorem offerEdge_rspValid (p : Pins) : (offerEdge p s).rspValid = s.rspValid := rfl
@[simp] theorem offerEdge_rspData (p : Pins) : (offerEdge p s).rspData = s.rspData := rfl
@[simp] theorem offerEdge_rspErr (p : Pins) : (offerEdge p s).rspErr = s.rspErr := rfl
@[simp] theorem offerEdge_inputs (p : Pins) : (offerEdge p s).inputs = .edge p :: s.inputs := rfl

end Sys2Proof.Machine
end

