-- ==== Sys2Proof/Laws/Edge.lean ====
section
/-! SUPPORT. What a clock edge can do, said once: its four branches, and the two ways a FEED in progress goes on. -/

namespace Sys2Proof.Machine

variable (p : Pins) (s : State)

/-- With `rst` the edge is a reset, whatever else the pins say. -/
theorem edge_of_rst (h : p.rst = true) : edge p s = resetRegisters s := by simp [edge, h]

/-- Without `rst`, a busy block takes one bit step, whatever is offered. -/
theorem edge_of_busy (hr : p.rst = false) (hb : s.busy = true) : edge p s = feedEdge s := by
  simp [edge, hr, hb]

/-- Without `rst`, an idle block accepts the offered word. -/
theorem edge_of_offer (hr : p.rst = false) (hb : s.busy = false) (hv : p.cmdValid = true) :
    edge p s = acceptWord p.cmd s := by simp [edge, hr, hb, hv]

/-- Without `rst` and with nothing offered, an idle block only ends its response pulse. -/
theorem edge_of_quiet (hr : p.rst = false) (hb : s.busy = false) (hv : p.cmdValid = false) :
    edge p s = noResponse s := by simp [edge, hr, hb, hv]

/-- The four cases of an edge, with their guards. -/
theorem edge_cases :
    (p.rst = true ∧ edge p s = resetRegisters s) ∨
    (p.rst = false ∧ s.busy = true ∧ edge p s = feedEdge s) ∨
    (p.rst = false ∧ s.busy = false ∧ p.cmdValid = true ∧ edge p s = acceptWord p.cmd s) ∨
    (p.rst = false ∧ s.busy = false ∧ p.cmdValid = false ∧ edge p s = noResponse s) := by
  cases hr : p.rst <;> cases hb : s.busy <;> cases hv : p.cmdValid <;> simp [edge, hr, hb, hv]

/-- The eighth bit of a FEED, or an earlier one. -/
theorem feedEdge_cases :
    (s.cnt = 7#3 ∧ feedEdge s = respond 0x00#8 false { stepBit s with busy := false, cnt := 0#3 }) ∨
    (s.cnt ≠ 7#3 ∧ feedEdge s = noResponse { stepBit s with cnt := s.cnt + 1#3 }) := by
  unfold feedEdge
  split_ifs with h
  · exact .inl ⟨h, rfl⟩
  · exact .inr ⟨h, rfl⟩

/-- The bit step of a FEED in progress is the same at the eighth bit and before it. -/
@[simp] theorem feedEdge_crc : (feedEdge s).crc = bitStep s.crc (topBit s.dsh) := by
  rcases feedEdge_cases s with ⟨-, h⟩ | ⟨-, h⟩ <;> simp [h]

@[simp] theorem feedEdge_dsh : (feedEdge s).dsh = shiftByte s.dsh := by
  rcases feedEdge_cases s with ⟨-, h⟩ | ⟨-, h⟩ <;> simp [h]

@[simp] theorem feedEdge_inputs : (feedEdge s).inputs = s.inputs := by
  rcases feedEdge_cases s with ⟨-, h⟩ | ⟨-, h⟩ <;> simp [h]

/-- An accept edge of a legal word. -/
theorem acceptWord_of_legal {w : Word} {i : Instr} (h : decode w = .legal i) :
    acceptWord w s = acceptEdge i s := by simp [acceptWord, h]

/-- An accept edge of an illegal word. -/
theorem acceptWord_of_illegal {w : Word} (h : decode w = .illegal) :
    acceptWord w s = illegalCommand s := by simp [acceptWord, h]

/-- No accept edge touches what the host does next. -/
@[simp] theorem acceptWord_inputs (w : Word) : (acceptWord w s).inputs = s.inputs := by
  unfold acceptWord
  split
  · rename_i i _
    cases i <;> simp [acceptEdge]
  · simp

/-- No edge touches what the host does next: it is the host's. -/
@[simp] theorem edge_inputs : (edge p s).inputs = s.inputs := by
  rcases edge_cases p s with ⟨-, h⟩ | ⟨-, -, h⟩ | ⟨-, -, -, h⟩ | ⟨-, -, -, h⟩ <;> simp [h]

/-- One edge, and the rest of the run. -/
@[simp] theorem runEdges_cons (ps : List Pins) : runEdges (p :: ps) s = runEdges ps (edge p s) := rfl

@[simp] theorem runEdges_nil : runEdges [] s = s := rfl

/-- A run in two parts. -/
theorem runEdges_append (ps qs : List Pins) : runEdges (ps ++ qs) s = runEdges qs (runEdges ps s) := by
  simp [runEdges]

/-- A word that finds the block ready waits no edge. -/
theorem waitReady_of_not_busy (w : Word) (h : s.busy = false) : waitReady w s = s := by
  simp [waitReady, waitEdges, h]

/-- One edge of the wait of an offered word. -/
theorem waitEdges_succ_of_busy (n : Nat) (w : Word) (h : s.busy = true) :
    waitEdges (n + 1) w s = waitEdges n w (feedEdge s) := by
  simp [waitEdges, h, edge, Pins.offer]

/-- The wait leaves what the host does next alone. -/
@[simp] theorem waitEdges_inputs (n : Nat) (w : Word) : (waitEdges n w s).inputs = s.inputs := by
  induction n generalizing s with
  | zero => rfl
  | succ n ih =>
    unfold waitEdges
    split
    · rw [ih, edge_inputs]
    · rfl

end Sys2Proof.Machine
end

