-- ==== Sys2Proof/Laws/PerInstr.lean ====
section
/-! SUPPORT. The per-command family TableRow: the word of a command belongs to its own row of the opcode map (spec R27),
and to no other. -/

namespace Sys2Proof.Laws.TableRow

/-- The command's word has its row's pattern under its row's mask, and no other row of the map has the word. -/
def Statement (i : Instr) : Prop :=
  (opcodeMap.filter (fun r => r.hasWord (encode i))) = [opcodeRow i]

theorem clear : Statement .clear := by unfold Statement; decide

theorem feed (d : Byte) : Statement (.feed d) := by
  unfold Statement
  revert d
  decide

theorem read : Statement .read := by unfold Statement; decide

theorem readraw : Statement .readraw := by unfold Statement; decide

end Sys2Proof.Laws.TableRow
end

