-- ==== Sys2Proof/Laws/Step.lean ====
section
/-! SUPPORT. What a step can do, said once: its three kinds of event, and the response each command gives. -/

namespace Sys2Proof.Machine

variable (s : State)

/-- At the end of the host's list the clock runs on with nothing offered. -/
theorem step_of_no_input (h : s.inputs = []) : step s = .next (edge Pins.quiet s) := by
  simp [step, fetch, h]

/-- A cycle-level event is one edge. -/
theorem step_of_edge {p : Pins} {rest : List HostEvent} (h : s.inputs = .edge p :: rest) :
    step s = .next (edge p { s with inputs := rest }) := by simp [step, fetch, h]

/-- A transaction-level event is one accepted word. -/
theorem step_of_command {w : Word} {rest : List HostEvent} (h : s.inputs = .command w :: rest) :
    step s = execWord w (waitReady w { s with inputs := rest }) := by simp [step, fetch, h]

/-- Sending a word is one step. -/
theorem sendWord_eq (w : Word) : sendWord w s = execWord w (waitReady w s) := by
  simp [sendWord, step, fetch, offerCommand]

/-- A word that finds the block ready. -/
theorem sendWord_of_not_busy (w : Word) (h : s.busy = false) : sendWord w s = execWord w s := by
  rw [sendWord_eq, waitReady_of_not_busy _ _ h]

/-- The next state of an accepted word. -/
def afterWord (w : Word) (s : State) : State :=
  match decode w with
  | .legal .clear => respond 0x00#8 false (clearCrc s)
  | .legal (.feed d) => respond 0x00#8 false (feedByte d s)
  | .legal .read => respond (stuff s.crc) false s
  | .legal .readraw => respond s.crc false s
  | .illegal => illegalCommand s

/-- Every accepted word, legal or not, has a next state, and this is it. -/
theorem execWord_eq (w : Word) : execWord w s = .next (afterWord w s) := by
  unfold execWord afterWord
  cases decode w with
  | illegal => rfl
  | legal i => cases i <;> rfl

end Sys2Proof.Machine
end

