-- ==== Sys2Proof/Tests/Slice0.lean ====
section
/-! SUPPORT. Tests from the words of the spec: the checks of WellFormed, the decoder, single steps with the values of
95_test_vectors.md, and a witness for the hypotheses of every statement that has some. -/

namespace Sys2Proof.Tests

open Sys2Proof Sys2Proof.Machine

/-! ## WellFormed: every command is well formed (spec R26), and each check of a line refuses an ill-formed one (R32) -/

theorem test_every_command_is_well_formed :
    ([Instr.clear, .feed 0x00#8, .feed 0xFF#8, .read, .readraw].all Instr.wellFormed) = true := by decide

theorem test_operand_on_clear_read_readraw_refused :
    (SourceLine.wellFormed ⟨.clear, [0]⟩ || SourceLine.wellFormed ⟨.read, [0]⟩
      || SourceLine.wellFormed ⟨.readraw, [0]⟩) = false := by decide

theorem test_feed_operand_count_refused :
    (SourceLine.wellFormed ⟨.feed, []⟩ || SourceLine.wellFormed ⟨.feed, [1, 2]⟩) = false := by decide

theorem test_feed_operand_range_refused :
    (SourceLine.wellFormed ⟨.feed, [256]⟩ || SourceLine.wellFormed ⟨.feed, [-1]⟩) = false := by decide

theorem test_raw_word_refused :
    (SourceLine.wellFormed ⟨.word, [65536]⟩ || SourceLine.wellFormed ⟨.word, [-1]⟩
      || SourceLine.wellFormed ⟨.word, []⟩) = false := by decide

theorem test_crc7_operand_range_refused : SourceLine.wellFormed ⟨.crc7, [0x40, 300]⟩ = false := by decide

theorem test_well_formed_lines_accepted :
    (SourceLine.wellFormed ⟨.clear, []⟩ && SourceLine.wellFormed ⟨.feed, [255]⟩
      && SourceLine.wellFormed ⟨.word, [65535]⟩ && SourceLine.wellFormed ⟨.crc7, []⟩) = true := by decide

/-! ## The decoder: bit patterns of spec R27 -/

theorem test_decode_clear : decode 0b0000000100000000#16 = .legal .clear := by decide
theorem test_decode_feed : decode 0b0000001010100101#16 = .legal (.feed 0b10100101#8) := by decide
theorem test_decode_read : decode 0b0000001100000000#16 = .legal .read := by decide
theorem test_decode_readraw : decode 0b0000010000000000#16 = .legal .readraw := by decide
theorem test_decode_table_word : decodeTableWord 16 0x02FF = some (.feed 0xFF#8) := by decide
theorem test_decode_table_word_illegal : decodeTableWord 16 0x8202 = none := by decide

/-! ## Single steps, values of 95_test_vectors.md sections 2.1 to 2.9 and 3 -/

/-- A small state: after reset, with this register value. -/
def holding (crc : Byte) : State := { State.reset with crc := crc }

/-- A FEED in progress. -/
def feeding (crc dsh : Byte) (cnt : BitVec 3) : State :=
  { State.reset with crc := crc, dsh := dsh, cnt := cnt, busy := true }

/-- What a step shows: the register and the response. -/
def shown : Host.Outcome State Fault Refusal → Option (Byte × Byte × Bool)
  | .next t => some (t.crc, t.rspData, t.rspErr)
  | .fault _ => none
  | .refused _ => none

theorem test_clear : shown (step ((holding 0xFF#8).withFetchWord 16 0x0100)) = some (0x00#8, 0x00#8, false) := by
  decide
theorem test_feed : shown (step ((holding 0x64#8).withFetchWord 16 0x0240)) = some (0x89#8, 0x00#8, false) := by
  decide +kernel
theorem test_feed_msb_first :
    shown (step ((holding 0x00#8).withFetchWord 16 0x0280)) = some (0xC1#8, 0x00#8, false) := by decide +kernel
theorem test_read : shown (step ((holding 0x99#8).withFetchWord 16 0x0300)) = some (0x99#8, 0x33#8, false) := by
  decide
theorem test_readraw : shown (step ((holding 0x99#8).withFetchWord 16 0x0400)) = some (0x99#8, 0x99#8, false) := by
  decide
theorem test_illegal_word :
    shown (step ((holding 0x99#8).withFetchWord 16 0x0301)) = some (0x99#8, 0x00#8, true) := by decide

theorem test_bit_step_tap : bitStep 0x41#8 true = 0x82#8 ∧ bitStep 0x3F#8 true = 0x77#8 := by decide

/-- Section 2.9, edge 4 of the program: the third bit step of FEED 0xFF. -/
theorem test_edge_bit_step :
    edge (Pins.offer 0x0205#16) (feeding 0x1B#8 0xFC#8 2#3) = feeding 0x3F#8 0xF8#8 3#3 := by decide

/-- Section 2.9, edge 18: the eighth bit step of FEED 0x05 answers (0x00, 0). -/
theorem test_edge_last_bit :
    edge (Pins.offer 0x0300#16) (feeding 0x1C#8 0x80#8 7#3) =
      { State.reset with crc := 0x31#8, rspValid := true } := by decide

/-- Program P4, edge 5: reset abandons the FEED. -/
theorem test_edge_reset : edge { Pins.offer 0x0300#16 with rst := true } (feeding 0x3F#8 0xF8#8 3#3) = State.reset := by
  decide

/-- A word that meets a FEED in progress sees its whole byte: `FEED 0x05` after 0x79 ends at 0x31 (section 2.9). -/
theorem test_step_waits_for_the_feed :
    shown (step ((feeding 0x79#8 0x05#8 0#3).withFetchWord 16 0x0300)) = some (0x31#8, 0x63#8, false) := by
  decide +kernel

theorem test_host_rejects : hostPlan [0x40, 300] = .reject 300 ∧ hostPlan [-1] = .reject (-1) := by decide

theorem test_assemble_text :
    assembleText (['F', 'E', 'E', 'D', ' ', '0', 'x', '4', '0', ' ', ';', 'b', '\n', '\n', 'R', 'E', 'A', 'D']) =
      .words [0x0240#16, 0x0300#16] := by decide +kernel

theorem test_assemble_text_crc7 :
    assembleTextLine ['C', 'R', 'C', '7', ' ', '0', 'x', 'f', 'f', ',', ' ', '5'] =
      .words [0x0100#16, 0x02FF#16, 0x0205#16, 0x0300#16] := by decide +kernel

/-! ## Witnesses: a state and operands that meet the hypotheses of each statement -/

theorem witness_DecodeOfEncode : (Instr.feed 0xFF#8).wellFormed = true := by decide
theorem witness_LegalWordIsTheEncoding : decode 0x02FF#16 = .legal (.feed 0xFF#8) := by decide
theorem witness_DecodeReadsOpAndData : (feeding 0x00#8 0xFF#8 0#3).busy = true := by decide
theorem witness_OtherWordsAreIllegal :
    decode 0xFFFF#16 = .illegal ∧ decode 0x0500#16 = .illegal ∧ State.reset.busy = false := by decide
theorem witness_BitStepShiftsAndTaps : (0xC0#8 : Byte).extractLsb' 0 7 ++ 0#1 = 0x80#8 := by decide
theorem witness_RegisterBitSevenIsInert :
    (0x80#8 : Byte) &&& 0x7F#8 = 0x00#8 &&& 0x7F#8 ∧ ∀ w ∈ [0x0240#16, 0x0300#16], decode w ≠ .legal .readraw :=
  ⟨by decide, List.forall_mem_cons.2 ⟨by decide, List.forall_mem_cons.2 ⟨by decide, List.forall_mem_nil _⟩⟩⟩
theorem witness_WideStorageKeepsTheLowByte : 8 ≤ 8 ∧ 8 ≤ 32 := by decide
theorem witness_ShiftedCopyFeedsTheIndexedBits : (List.replicate 7 true).length < 8 := by decide
theorem witness_DatapathIsLinear : [true, false].length = [false, false].length := by decide
theorem witness_ResetOverridesEverything :
    [Pins.reset, Pins.reset] ≠ [] ∧ (∀ p ∈ [Pins.reset, Pins.reset], p.rst = true) ∧ Pins.quiet.rst = false := by decide
theorem witness_BootFromAnyPowerOnState :
    [Pins.reset] ≠ [] ∧ ∀ p ∈ [Pins.reset], p.rst = true := by decide
theorem witness_ClockEdge_reset : Pins.reset.rst = true := by decide
theorem witness_ClockEdge_busy :
    (Pins.offer 0x0300#16).rst = false ∧ (feeding 0x00#8 0x80#8 7#3).busy = true ∧ (feeding 0x00#8 0x80#8 7#3).cnt = 7#3 ∧
    (feeding 0x00#8 0x80#8 6#3).cnt ≠ 7#3 := by decide
theorem witness_ClockEdge_idle :
    State.reset.busy = false ∧ (Pins.offer 0x02FF#16).cmdValid = true ∧ Pins.quiet.cmdValid = false ∧
    Pins.quiet.rst = false := by decide
theorem witness_ClockEdge_feed :
    (Pins.offer 0x02FF#16).rst = false ∧ (Pins.offer 0x02FF#16).cmdValid = true ∧ State.reset.busy = false ∧
    decode (Pins.offer 0x02FF#16).cmd = .legal (.feed 0xFF#8) ∧
    (∀ q ∈ List.replicate 7 Pins.quiet, q.rst = false) ∧ (List.replicate 7 Pins.quiet).length < 8 := by decide
theorem witness_CommandTransfersAtItsAcceptEdge :
    accepts (Pins.offer 0x0300#16) (feeding 0x00#8 0xFF#8 0#3) = false ∧ accepts Pins.quiet State.reset = false := by
  decide
theorem witness_ResponseIsValidForOneCycle :
    Pins.quiet.rst = false ∧ (edge Pins.quiet { State.reset with rspValid := true }).rspValid = false := by decide
theorem witness_OnlyBitStepClearAndResetWriteCrc :
    (edge Pins.reset (holding 0x64#8)).crc ≠ (holding 0x64#8).crc ∧
    (edge Pins.quiet (feeding 0x00#8 0x80#8 0#3)).crc ≠ (feeding 0x00#8 0x80#8 0#3).crc ∧
    (edge (Pins.offer 0x0100#16) (holding 0x64#8)).crc ≠ (holding 0x64#8).crc := by decide
theorem witness_OnlyCrcMattersBetweenCommands :
    (holding 0x64#8).busy = false ∧ ({ holding 0x64#8 with dsh := 0xFF#8, cnt := 5#3 } : State).busy = false ∧
    (holding 0x64#8).crc = ({ holding 0x64#8 with dsh := 0xFF#8, cnt := 5#3 } : State).crc := by decide
theorem witness_CycleLevelRefines_word :
    State.reset.Idle ∧ (Pins.offer 0x0300#16).rst = false ∧ (Pins.offer 0x0300#16).cmdValid = true ∧
    decode (Pins.offer 0x0300#16).cmd = .legal .read := by decide
theorem witness_CycleLevelRefines_feed :
    decode (Pins.offer 0x0240#16).cmd = .legal (.feed 0x40#8) ∧ (∀ q ∈ List.replicate 8 Pins.quiet, q.rst = false) ∧
    (List.replicate 8 Pins.quiet).length = 8 ∧ (List.replicate 7 Pins.quiet).length < 8 := by decide
theorem witness_CycleLevelRefines_run :
    (∀ p ∈ [Pins.offer 0x0300#16, Pins.quiet], p.rst = false) ∧
    (runEdges [Pins.offer 0x0300#16, Pins.quiet] State.reset).busy = false := by decide
theorem witness_EveryRunIsItsCompletedTransactions :
    State.reset.Idle ∧
    (runEdges [Pins.offer 0x02FF#16, Pins.quiet, Pins.reset, Pins.offer 0x0300#16] State.reset).busy = false := by decide
theorem witness_CommandStepIsItsClockEdges :
    (offerCommand 0x0300#16 (feeding 0x00#8 0xFF#8 0#3)).inputs = .command 0x0300#16 :: [] := by decide
theorem witness_FeedEndsAfterItsEighthBit :
    (feeding 0x00#8 0xFF#8 6#3).busy = true ∧ (∀ p ∈ [Pins.quiet, Pins.quiet], p.rst = false) ∧
    [Pins.quiet].length < 8 - (feeding 0x00#8 0xFF#8 6#3).cnt.toNat ∧
    [Pins.quiet, Pins.quiet].length = 8 - (feeding 0x00#8 0xFF#8 6#3).cnt.toNat := by decide
theorem witness_CommandTiming :
    (Pins.offer 0x0100#16).rst = false ∧ (Pins.offer 0x0100#16).cmdValid = true ∧ State.reset.busy = false ∧
    decode (Pins.offer 0x0100#16).cmd = .legal .clear ∧ decode (Pins.offer 0x0200#16).cmd = .legal (.feed 0x00#8) ∧
    Pins.reset.rst = true := by decide
theorem witness_MessageTakesNineEdgesPerByte :
    State.reset.busy = false ∧ Pins.quiet.rst = false ∧ (feeding 0x00#8 0xFF#8 0#3).busy = true := by decide
theorem witness_WaitingWordIsNotTaken :
    (feeding 0x00#8 0xFF#8 7#3).busy = true ∧ (∀ p ∈ [Pins.offer 0x0300#16], p.rst = false) ∧
    (∀ q ∈ [Pins.quiet], q.rst = false) ∧ [Pins.offer 0x0300#16].length = [Pins.quiet].length ∧
    [Pins.offer 0x0300#16].length = 8 - (feeding 0x00#8 0xFF#8 7#3).cnt.toNat := by decide
theorem witness_ResponseIsHeldUntilTheNext :
    (∀ p ∈ [Pins.quiet, Pins.offer 0x02FF#16], p.rst = false) ∧
    responses [Pins.quiet, Pins.offer 0x02FF#16] State.reset = [] ∧ State.reset.busy = false := by decide
theorem witness_StepKeepsTheInvariant :
    State.reset.Inv ∧ (feeding 0x00#8 0x80#8 7#3).Inv ∧ step State.reset = .next State.reset := by
  exact ⟨by decide, by decide, rfl⟩
theorem witness_CommandStepEndsIdle :
    (offerCommand 0x02FF#16 (feeding 0x00#8 0x80#8 7#3)).Inv ∧
    (offerCommand 0x02FF#16 (feeding 0x00#8 0x80#8 7#3)).inputs = .command 0x02FF#16 :: [] := by decide
theorem witness_StepRunsTheDecodedCommand :
    (offerCommand 0x0400#16 State.reset).inputs = .command 0x0400#16 :: [] ∧ decode 0x0400#16 = .legal .readraw ∧
    (offerEdge Pins.quiet State.reset).inputs = .edge Pins.quiet :: [] ∧ State.reset.busy = false := by decide
theorem witness_ExecDispatchesOnTheWord : State.reset.busy = false ∧ (holding 0x99#8).busy = false := by decide
theorem witness_ClearSetsTheInitialValue :
    (0x01#8 : Byte) ≠ 0x00#8 ∧ exec .clear State.reset = .next (respond 0x00#8 false State.reset) :=
  ⟨by decide, rfl⟩
theorem witness_FeedTakesOneByte :
    State.reset.busy = false ∧ (∀ q ∈ List.replicate 8 Pins.quiet, q.rst = false) ∧
    (List.replicate 8 Pins.quiet).length = 8 ∧ (List.replicate 7 Pins.quiet).length < 8 := by decide
theorem witness_ReadAnswersTheStuffedRegister :
    (0xFF#8 : Byte) ≠ 0x00#8 ∧ exec .read State.reset = .next (respond (stuff 0x00#8) false State.reset) :=
  ⟨by decide, rfl⟩
theorem witness_ReadrawAnswersTheRegister :
    (0x80#8 : Byte) ≠ 0x00#8 ∧ decode 0x0300#16 ≠ .legal .readraw ∧
    (0x80#8 : Byte) &&& 0x7F#8 = 0x00#8 &&& 0x7F#8 := by decide
theorem witness_IllegalWordAnswersAnError : decode 0x0000#16 = .illegal ∧ (holding 0x5A#8).busy = false := by decide
theorem witness_ReadsHaveNoSideEffect :
    (holding 0x4A#8).busy = false ∧
    (∀ w ∈ [0x0300#16, 0x0400#16, 0x0000#16],
      decode w = .legal .read ∨ decode w = .legal .readraw ∨ decode w = .illegal) :=
  ⟨by decide, List.forall_mem_cons.2 ⟨by decide, List.forall_mem_cons.2 ⟨by decide,
    List.forall_mem_cons.2 ⟨by decide, List.forall_mem_nil _⟩⟩⟩⟩
theorem witness_MessageCommandsComputeCrc7 : Pins.reset.rst = true ∧ (holding 0x64#8).busy = false := by decide
theorem witness_HostValidatesBeforeItSends :
    (∀ x ∈ [(0 : Int), 255], 0 ≤ x ∧ x ≤ 255) ∧ ((-1 : Int) < 0 ∨ (-1 : Int) > 255) ∧
    ((256 : Int) < 0 ∨ (256 : Int) > 255) := by decide
theorem witness_AssemblerEncodesLines :
    ((256 : Int) < 0 ∨ (256 : Int) > 255) ∧ ((-1 : Int) < 0 ∨ (-1 : Int) > 255) ∧
    ';' ∉ ['R', 'E', 'A', 'D'] ∧ '\n' ∉ ['R', 'E', 'A', 'D'] ∧
    (Mnemonic.read = .clear ∨ Mnemonic.read = .read ∨ Mnemonic.read = .readraw) := by decide
theorem witness_Crc7PseudoExpands :
    assembleLine ⟨.crc7, [(0x40#8 : Byte)].map (fun b => (b.toNat : Int))⟩ =
      .words [0x0100#16, 0x0240#16, 0x0300#16] := by decide +kernel
theorem witness_InstancesAreIndependent :
    stepInstance 0 [State.reset, holding 0x64#8] = .next [State.reset, holding 0x64#8] ∧ (1 : Nat) ≠ 0 ∧
    [State.reset, holding 0x64#8][1]? = some (holding 0x64#8) ∧ step (holding 0x64#8) = .next (holding 0x64#8) :=
  ⟨rfl, by decide, rfl, rfl⟩

end Sys2Proof.Tests
end

section
/-! PROOFS. How a FEED in progress ends, and the atomic command step as a run of clock edges (spec R3, R74 to R78). -/

namespace Sys2Proof.Machine

/-! ### The data shift register: the bits it feeds, and what is left of it -/

/-- Shifts of `dsh` add up to one shift. -/
theorem shiftByte_iterate (k : Nat) (d : Byte) : shiftByte^[k] d = d <<< k := by
  induction k with
  | zero => simp
  | succ k ih => rw [Function.iterate_succ_apply', ih, shiftByte, BitVec.shiftLeft_add]

/-- Eight shifts empty `dsh`. -/
theorem shiftByte_iterate_eight (d : Byte) : shiftByte^[8] d = 0x00#8 := by
  rw [shiftByte_iterate, BitVec.shiftLeft_eq_zero (le_refl 8)]

/-- After `k` shifts the top bit of `dsh` is the input bit of step `k` (spec R39). -/
theorem topBit_shiftByte_iterate {k : Nat} (hk : k < 8) (d : Byte) :
    topBit (shiftByte^[k] d) = inputBit d k := by
  have hk7 : ¬ 7 < k := by omega
  simp only [shiftByte_iterate, topBit, inputBit, BitVec.getLsbD_shiftLeft]
  simp [hk7]

/-- The next `n` bits that `dsh` feeds, one an edge. -/
def fedBits (n : Nat) (dsh : Byte) : List Bool := (List.iterate shiftByte dsh n).map topBit

@[simp] theorem fedBits_zero (dsh : Byte) : fedBits 0 dsh = [] := rfl

@[simp] theorem fedBits_succ (n : Nat) (dsh : Byte) :
    fedBits (n + 1) dsh = topBit dsh :: fedBits n (shiftByte dsh) := rfl

/-- A loaded byte feeds its eight bits, most significant first (spec R38). -/
theorem fedBits_eight (d : Byte) : fedBits 8 d = inputBits d := by
  rw [fedBits, ← List.range_map_iterate, List.map_map, inputBits]
  exact List.map_congr_left fun k hk => topBit_shiftByte_iterate (List.mem_range.1 hk) d

@[simp] theorem feedBits_nil (c : Byte) : feedBits c [] = c := rfl

@[simp] theorem feedBits_cons (c : Byte) (b : Bool) (bits : List Bool) :
    feedBits c (b :: bits) = feedBits (bitStep c b) bits := rfl

/-! ### The edges left of a FEED in progress -/

/-- The edges until the block is ready, if it is not reset: the rest of the FEED in progress (spec R76). -/
def edgesLeft (s : State) : Nat := if s.busy then 8 - s.cnt.toNat else 0

theorem edgesLeft_of_not_busy {s : State} (h : s.busy = false) : edgesLeft s = 0 := by
  simp [edgesLeft, h]

theorem edgesLeft_of_busy {s : State} (h : s.busy = true) : edgesLeft s = 8 - s.cnt.toNat := by
  simp [edgesLeft, h]

theorem edgesLeft_le_eight (s : State) : edgesLeft s ≤ 8 := by
  unfold edgesLeft
  split <;> omega

/-- A `cnt` that is not 7 counts on without wrapping round. -/
theorem cnt_succ_toNat {c : BitVec 3} (h : c ≠ 7#3) : (c + 1#3).toNat = c.toNat + 1 := by
  bv_omega

/-- Each edge of a FEED in progress takes one of the edges left. -/
theorem edgesLeft_feedEdge {s : State} (hb : s.busy = true) :
    edgesLeft s = edgesLeft (feedEdge s) + 1 := by
  rw [edgesLeft_of_busy hb]
  obtain ⟨h, hedge⟩ | ⟨h, hedge⟩ := feedEdge_cases s
  · simp [edgesLeft, hedge, h]
  · have hlt : s.cnt.toNat < 7 := by bv_omega
    have hleft : edgesLeft (feedEdge s) = 8 - (s.cnt.toNat + 1) := by
      simp [edgesLeft, hedge, hb, cnt_succ_toNat h]
    omega

/-- The rest of a FEED, whole (spec R74): whatever is offered meanwhile, the register takes the bits left in `dsh`, the
sequencer comes to rest, and the last edge answers (0x00, 0). -/
theorem runEdges_rest_of_feed (ps : List Pins) (s : State) (hps : ∀ p ∈ ps, p.rst = false)
    (hb : s.busy = true) (hlen : ps.length = edgesLeft s) :
    runEdges ps s = respond 0x00#8 false
      { s with crc := feedBits s.crc (fedBits ps.length s.dsh), dsh := shiftByte^[ps.length] s.dsh
               cnt := 0#3, busy := false } := by
  induction ps generalizing s with
  | nil => simp [edgesLeft_feedEdge hb] at hlen
  | cons p qs ih =>
    obtain ⟨hp, hqs⟩ := List.forall_mem_cons.1 hps
    have hleft : qs.length = edgesLeft (feedEdge s) := by
      simpa [edgesLeft_feedEdge hb] using hlen
    rw [runEdges_cons, edge_of_busy p s hp hb]
    obtain ⟨-, hedge⟩ | ⟨-, hedge⟩ := feedEdge_cases s
    · obtain rfl : qs = [] := by simpa [hedge, edgesLeft] using hleft
      simp [hedge, respond, stepBit]
    · have hbusy : (feedEdge s).busy = true := by simp [hedge, hb]
      rw [ih (feedEdge s) hqs hbusy hleft, hedge]
      simp [respond, noResponse, stepBit]

/-- The wait of an offered word is the edges left of the FEED in progress, with the word offered. -/
theorem waitEdges_eq_runEdges (n : Nat) (w : Word) (s : State) (hn : edgesLeft s ≤ n) :
    waitEdges n w s = runEdges (List.replicate (edgesLeft s) (Pins.offer w)) s := by
  induction n generalizing s with
  | zero => simp [Nat.le_zero.1 hn, waitEdges]
  | succ n ih =>
    cases hb : s.busy with
    | false => simp [edgesLeft_of_not_busy hb, waitEdges, hb]
    | true =>
      have hleft := edgesLeft_feedEdge hb
      rw [waitEdges_succ_of_busy s n w hb, ih (feedEdge s) (by omega), hleft, List.replicate_succ,
        runEdges_cons, edge_of_busy _ s rfl hb]

/-- Eight edges of waiting are enough for every FEED in progress (spec R76). -/
theorem waitReady_eq_runEdges (w : Word) (s : State) :
    waitReady w s = runEdges (List.replicate (edgesLeft s) (Pins.offer w)) s :=
  waitEdges_eq_runEdges 8 w s (edgesLeft_le_eight s)

/-- After its wait an offered word finds the block ready. -/
@[simp] theorem waitReady_busy (w : Word) (s : State) : (waitReady w s).busy = false := by
  cases hb : s.busy with
  | false => rw [waitReady_of_not_busy s w hb, hb]
  | true =>
    rw [waitReady_eq_runEdges, runEdges_rest_of_feed _ s (by simp [Pins.offer]) hb (by simp),
      respond_busy]

/-! ### The edges of an accepted word -/

/-- The edges from the accept edge of `w` to its response (spec R76). -/
def edgesAfterAccept (w : Word) : Nat :=
  match decode w with
  | .legal (.feed _) => 8
  | _ => 0

/-- FEED: the accept edge loads the byte, and eight quiet edges feed it (spec R75). -/
theorem runEdges_after_acceptFeed (d : Byte) (s : State) :
    runEdges (List.replicate 8 Pins.quiet) (acceptEdge (.feed d) s) =
      respond 0x00#8 false (feedByte d s) := by
  rw [runEdges_rest_of_feed _ _ (by simp [Pins.quiet]) rfl rfl, List.length_replicate,
    shiftByte_iterate_eight, fedBits_eight]
  rfl

/-- The accept edge and the edges after it make up the whole transaction of a word (spec R75). -/
theorem runEdges_after_acceptWord (w : Word) (s : State) :
    runEdges (List.replicate (edgesAfterAccept w) Pins.quiet) (acceptWord w s) = afterWord w s := by
  unfold edgesAfterAccept acceptWord afterWord
  cases decode w with
  | illegal => rfl
  | legal i =>
    cases i with
    | feed d => exact runEdges_after_acceptFeed d s
    | clear => rfl
    | read => rfl
    | readraw => rfl

/-- The transaction of an offered word, from any state: the wait is the rest of the FEED in progress, the block is then
ready, so the next edge accepts the word, and the quiet edges after it bring the response (spec R3, R78). -/
theorem execWord_waitReady_eq_runEdges (w : Word) (s : State) :
    execWord w (waitReady w s) = .next (runEdges
      (List.replicate (edgesLeft s + 1) (Pins.offer w) ++
        List.replicate (edgesAfterAccept w) Pins.quiet) s) := by
  have haccept : edge (Pins.offer w) (waitReady w s) = acceptWord w (waitReady w s) :=
    edge_of_offer _ _ rfl (waitReady_busy w s) rfl
  rw [runEdges_append, List.replicate_succ', runEdges_append, ← waitReady_eq_runEdges,
    runEdges_cons, runEdges_nil, haccept, runEdges_after_acceptWord, execWord_eq]

/-- Settles O29: a command step is the transaction of its word, and that is its run of clock edges. -/
theorem commandStepIsItsClockEdges : Obligations.CommandStepIsItsClockEdges := by
  unfold Obligations.CommandStepIsItsClockEdges
  intro s w rest h
  rw [step_of_command s h]
  exact execWord_waitReady_eq_runEdges w { s with inputs := rest }

end Sys2Proof.Machine
end

section
/-! PROOFS. What the wrapper's operations do, said once for the statements about the state: the accepted word, the
response of an edge, the reset, and the message that is sent from a ready block. -/

namespace Sys2Proof.Machine

/-! ### An accepted word is loaded or answered -/

/-- The decoder reads every command back from its own word (spec R25 to R27). -/
@[simp] theorem decode_encode (i : Instr) : decode (encode i) = .legal i := by
  cases i with
  | feed d => simp [encode, opcode, dataField, decode]
  | clear => rfl
  | read => rfl
  | readraw => rfl

/-- The edge that completes the transaction of `w` (spec R47): the register and the response are those of `Exec`. -/
def answerWord (w : Word) (s : State) : State :=
  respond (transact s.crc w).2.data (transact s.crc w).2.err { s with crc := (transact s.crc w).1 }

/-- A FEED is only loaded at its accept edge. -/
theorem acceptWord_of_feed {w : Word} {d : Byte} (s : State) (h : decode w = .legal (.feed d)) :
    acceptWord w s = noResponse (loadByte d s) := by
  rw [acceptWord_of_legal s h]
  rfl

/-- Every other word, legal or not, is complete at its accept edge. -/
theorem acceptWord_of_not_feed {w : Word} (s : State) (h : ∀ d, decode w ≠ .legal (.feed d)) :
    acceptWord w s = answerWord w s := by
  unfold acceptWord answerWord transact
  cases hw : decode w with
  | illegal => rfl
  | legal i =>
    cases i with
    | feed d => exact absurd hw (h d)
    | clear => rfl
    | read => rfl
    | readraw => rfl

/-- The two kinds of accept edge. -/
theorem acceptWord_cases (w : Word) (s : State) :
    (∃ d, decode w = .legal (.feed d) ∧ acceptWord w s = noResponse (loadByte d s)) ∨
    ((∀ d, decode w ≠ .legal (.feed d)) ∧ acceptWord w s = answerWord w s) := by
  by_cases h : ∃ d, decode w = .legal (.feed d)
  · obtain ⟨d, hd⟩ := h
    exact .inl ⟨d, hd, acceptWord_of_feed s hd⟩
  · have hne : ∀ d, decode w ≠ .legal (.feed d) := not_exists.1 h
    exact .inr ⟨hne, acceptWord_of_not_feed s hne⟩

@[simp] theorem answerWord_crc (w : Word) (s : State) :
    (answerWord w s).crc = (transact s.crc w).1 := rfl
@[simp] theorem answerWord_dsh (w : Word) (s : State) : (answerWord w s).dsh = s.dsh := rfl
@[simp] theorem answerWord_cnt (w : Word) (s : State) : (answerWord w s).cnt = s.cnt := rfl
@[simp] theorem answerWord_busy (w : Word) (s : State) : (answerWord w s).busy = s.busy := rfl
@[simp] theorem answerWord_rspValid (w : Word) (s : State) : (answerWord w s).rspValid = true := rfl
@[simp] theorem answerWord_rspData (w : Word) (s : State) :
    (answerWord w s).rspData = (transact s.crc w).2.data := rfl
@[simp] theorem answerWord_rspErr (w : Word) (s : State) :
    (answerWord w s).rspErr = (transact s.crc w).2.err := rfl

/-- The transaction of an illegal word is the only one with the error bit, and its data is 0x00 (spec R47). -/
theorem transact_data_of_err {c : Byte} {w : Word} (h : (transact c w).2.err = true) :
    (transact c w).2.data = 0x00#8 := by
  unfold transact at h ⊢
  cases hw : decode w with
  | illegal => rfl
  | legal i => cases i <;> simp [hw] at h

/-- CLEAR is the only word that writes the register at its accept edge (spec R5). -/
theorem acceptWord_crc_of_not_clear {w : Word} (s : State) (h : decode w ≠ .legal .clear) :
    (acceptWord w s).crc = s.crc := by
  unfold acceptWord
  cases hw : decode w with
  | illegal => rfl
  | legal i =>
    cases i with
    | clear => exact absurd hw h
    | feed d => rfl
    | read => rfl
    | readraw => rfl

/-- The accept edge, without the ready signal (spec R10). -/
theorem accepts_iff (p : Pins) (s : State) :
    accepts p s = true ↔ p.rst = false ∧ s.busy = false ∧ p.cmdValid = true := by
  simp only [accepts, cmdReady, Bool.and_eq_true, Bool.not_eq_true']
  tauto

/-! ### The whole transaction of a word -/

/-- A completed transaction shows its response. -/
@[simp] theorem afterWord_rspValid (w : Word) (s : State) : (afterWord w s).rspValid = true := by
  unfold afterWord
  cases decode w with
  | illegal => rfl
  | legal i => cases i <;> rfl

/-- A transaction that began with the block ready leaves it ready. -/
theorem afterWord_busy (w : Word) {s : State} (h : s.busy = false) : (afterWord w s).busy = false := by
  unfold afterWord
  cases decode w with
  | illegal => exact h
  | legal i =>
    cases i with
    | feed d => rfl
    | clear => exact h
    | read => exact h
    | readraw => exact h

@[simp] theorem afterWord_inputs (w : Word) (s : State) : (afterWord w s).inputs = s.inputs := by
  unfold afterWord
  cases decode w with
  | illegal => rfl
  | legal i => cases i <;> rfl

@[simp] theorem waitReady_inputs (w : Word) (s : State) : (waitReady w s).inputs = s.inputs :=
  waitEdges_inputs s 8 w

/-- A FEED sent to a ready block. -/
theorem sendWord_feed (d : Byte) {s : State} (h : s.busy = false) :
    sendWord (encode (.feed d)) s = .next (respond 0x00#8 false (feedByte d s)) := by
  rw [sendWord_of_not_busy s _ h, execWord_eq, afterWord, decode_encode]

/-- A READ sent to a ready block. -/
theorem sendWord_read {s : State} (h : s.busy = false) :
    sendWord (encode .read) s = .next (respond (stuff s.crc) false s) := by
  rw [sendWord_of_not_busy s _ h, execWord_eq, afterWord, decode_encode]

/-- FEEDs sent to a ready block fold their bytes into the register and leave the block ready (spec R44, R52). -/
theorem sendWords_feeds (bytes : List Byte) (ws : List Word) {s : State} (h : s.busy = false) :
    ∃ t, sendWords (bytes.map (fun b => encode (.feed b)) ++ ws) s = sendWords ws t ∧
      t.crc = feedBytes s.crc bytes ∧ t.busy = false := by
  induction bytes generalizing s with
  | nil => exact ⟨s, rfl, rfl, h⟩
  | cons b bytes ih =>
    have hb : (respond 0x00#8 false (feedByte b s)).busy = false := rfl
    obtain ⟨t, hsend, hcrc, hbusy⟩ := ih hb
    refine ⟨t, ?_, hcrc, hbusy⟩
    rw [List.map_cons, List.cons_append, sendWords, sendWord_feed b h]
    exact hsend

/-! ### Reset -/

/-- One reset edge or many: the registers take their reset values (spec R12, R72). -/
theorem runEdges_of_rst {ps : List Pins} (hne : ps ≠ []) (hrst : ∀ p ∈ ps, p.rst = true) (s : State) :
    runEdges ps s = resetRegisters s := by
  induction ps generalizing s with
  | nil => exact absurd rfl hne
  | cons p qs ih =>
    obtain ⟨hp, hqs⟩ := List.forall_mem_cons.1 hrst
    rw [runEdges_cons, edge_of_rst p s hp]
    by_cases hq : qs = []
    · rw [hq, runEdges_nil]
    · rw [ih hq hqs]
      rfl

/-! ### The response of an edge -/

/-- The edges that produce a response (spec R9, R74): a FEED's eighth bit, and the accept edge of a word that is no
FEED. -/
def IsResponseEdge (p : Pins) (s : State) : Prop :=
  (s.busy = true ∧ s.cnt = 7#3) ∨
  (s.busy = false ∧ p.cmdValid = true ∧ ∀ d, decode p.cmd ≠ .legal (.feed d))

/-- Reset, an edge with a response, or an edge that keeps the last one (spec R9, R12). -/
theorem edge_response_cases (p : Pins) (s : State) :
    (p.rst = true ∧ (edge p s).rspValid = false) ∨
    (p.rst = false ∧ IsResponseEdge p s ∧ (edge p s).rspValid = true) ∨
    (p.rst = false ∧ ¬ IsResponseEdge p s ∧ (edge p s).rspValid = false ∧
      (edge p s).rspData = s.rspData ∧ (edge p s).rspErr = s.rspErr) := by
  unfold IsResponseEdge
  obtain ⟨hr, he⟩ | ⟨hr, hb, he⟩ | ⟨hr, hb, hv, he⟩ | ⟨hr, hb, hv, he⟩ := edge_cases p s
  · simp [hr, he]
  · obtain ⟨hc, hf⟩ | ⟨hc, hf⟩ := feedEdge_cases s <;> simp [hr, hb, hc, he, hf]
  · obtain ⟨d, hd, ha⟩ | ⟨hd, ha⟩ := acceptWord_cases p.cmd s
    · simp [hr, hb, hv, hd, he, ha]
    · simp [hr, hb, hv, hd, he, ha]
  · simp [hr, hb, hv, he]

end Sys2Proof.Machine
end

section
/-! PROOFS. The invariant of the block (spec R6, R7, R11, R58, R74): each kind of edge keeps it, and every step is a run
of edges. -/

namespace Sys2Proof.Machine

/-- A reset meets the invariant from every state (spec R12). -/
theorem resetRegisters_inv (s : State) : (resetRegisters s).Inv :=
  ⟨fun _ => ⟨rfl, rfl⟩, nofun, nofun, nofun⟩

/-- Ending the response pulse keeps the invariant. -/
theorem noResponse_inv {s : State} (h : s.Inv) : (noResponse s).Inv := by
  obtain ⟨hrest, hfed, -, herr⟩ := h
  exact ⟨hrest, hfed, fun _ => rfl, herr⟩

/-- FEED's accept edge: nothing has been shifted out yet, and no response shows. -/
theorem loadByte_inv (d : Byte) {s : State} (h : s.Inv) : (noResponse (loadByte d s)).Inv := by
  obtain ⟨-, -, -, herr⟩ := h
  exact ⟨nofun, fun _ k hk => absurd hk (Nat.not_lt_zero k), fun _ => rfl, herr⟩

/-- A transaction completed in a ready block keeps it at rest, and an error answers 0x00. -/
theorem answerWord_inv (w : Word) {s : State} (hb : s.busy = false) (h : s.Inv) :
    (answerWord w s).Inv := by
  obtain ⟨hrest, hfed, -, -⟩ := h
  refine ⟨hrest, hfed, fun hbusy => ?_, transact_data_of_err⟩
  simp [hb] at hbusy

/-- Each shift of `dsh` fills one more low bit with 0 (spec R6). -/
theorem shiftByte_low_bits {d : Byte} {n : Nat} (h : ∀ k < n, d.getLsbD k = false) :
    ∀ k < n + 1, (shiftByte d).getLsbD k = false := by
  intro k hk
  cases k with
  | zero => simp [shiftByte]
  | succ k => simp [shiftByte, h k (by omega)]

/-- With seven bits fed, the eighth shift empties `dsh`. -/
theorem shiftByte_of_seven_fed {d : Byte} (h : ∀ k < 7, d.getLsbD k = false) :
    shiftByte d = 0x00#8 := by
  apply BitVec.eq_of_getLsbD_eq
  intro k hk
  rw [shiftByte_low_bits h k hk, BitVec.getLsbD_zero]

/-- One bit of a FEED in progress: one more bit is shifted out, and after the eighth nothing is left in `dsh`. -/
theorem feedEdge_inv {s : State} (hb : s.busy = true) (h : s.Inv) : (feedEdge s).Inv := by
  obtain ⟨-, hfed, -, herr⟩ := h
  have hlow := hfed hb
  obtain ⟨hc, he⟩ | ⟨hc, he⟩ := feedEdge_cases s
  · rw [hc] at hlow
    rw [he]
    exact ⟨fun _ => ⟨rfl, shiftByte_of_seven_fed hlow⟩, nofun, nofun, nofun⟩
  · rw [he]
    refine ⟨fun hidle => ?_, fun _ k hk => ?_, fun _ => rfl, herr⟩
    · simp [hb] at hidle
    · exact shiftByte_low_bits hlow k (cnt_succ_toNat hc ▸ hk)

/-- Every edge keeps the invariant. -/
theorem edge_inv (p : Pins) {s : State} (h : s.Inv) : (edge p s).Inv := by
  obtain ⟨-, he⟩ | ⟨-, hb, he⟩ | ⟨-, hb, -, he⟩ | ⟨-, -, -, he⟩ := edge_cases p s <;> rw [he]
  · exact resetRegisters_inv s
  · exact feedEdge_inv hb h
  · obtain ⟨d, -, ha⟩ | ⟨-, ha⟩ := acceptWord_cases p.cmd s <;> rw [ha]
    · exact loadByte_inv d h
    · exact answerWord_inv p.cmd hb h
  · exact noResponse_inv h

/-- So does every run of edges. -/
theorem runEdges_inv (ps : List Pins) {s : State} (h : s.Inv) : (runEdges ps s).Inv := by
  induction ps generalizing s with
  | nil => exact h
  | cons p ps ih => exact ih (edge_inv p h)

/-- Every step is a run of clock edges on the state without the event it took up (spec R3). -/
theorem step_eq_runEdges (s : State) :
    ∃ ps rest, step s = .next (runEdges ps { s with inputs := rest }) := by
  cases h : s.inputs with
  | nil =>
    refine ⟨[Pins.quiet], [], ?_⟩
    rw [step_of_no_input s h, ← h]
    rfl
  | cons e rest =>
    cases e with
    | edge p => exact ⟨[p], rest, step_of_edge s h⟩
    | command w => exact ⟨_, rest, (step_of_command s h).trans (execWord_waitReady_eq_runEdges w _)⟩

/-- Settles O36: a step is a run of edges, and every edge keeps the invariant. -/
theorem stepKeepsTheInvariant : Obligations.StepKeepsTheInvariant := by
  unfold Obligations.StepKeepsTheInvariant
  intro s t hinv hstep
  obtain ⟨ps, rest, heq⟩ := step_eq_runEdges s
  obtain rfl : runEdges ps { s with inputs := rest } = t :=
    Host.Outcome.next.inj (heq.symm.trans hstep)
  exact runEdges_inv ps hinv

/-- Settles O35: every register of the reset state is at rest. -/
theorem invariantHoldsAtReset : Obligations.InvariantHoldsAtReset :=
  resetRegisters_inv State.reset

/-- Settles O37: the command is complete, so the block is not busy, and the invariant puts it at rest. -/
theorem commandStepEndsIdle : Obligations.CommandStepEndsIdle := by
  unfold Obligations.CommandStepEndsIdle
  intro s w rest hinv hin
  have hstep : step s = .next (afterWord w (waitReady w { s with inputs := rest })) :=
    (step_of_command s hin).trans (execWord_eq _ w)
  have hbusy := afterWord_busy w (waitReady_busy w { s with inputs := rest })
  obtain ⟨hrest, -, -, -⟩ := stepKeepsTheInvariant s _ hinv hstep
  exact ⟨_, hstep, ⟨hbusy, hrest hbusy⟩, by simp, by simp⟩

end Sys2Proof.Machine
end

section
/-! PROOFS. The registers one by one (10_state.md): reset, the accept edge, the response, the writers of `crc`, the
count of a FEED, and what a host can see of the block. -/

namespace Sys2Proof.Machine

/-- Settles O19: the reset values are those of spec R12. -/
theorem resetStateHoldsTheSpecValues : Obligations.ResetStateHoldsTheSpecValues :=
  ⟨rfl, rfl, rfl, rfl, rfl, rfl, rfl⟩

/-- Settles O21: the reset leaves nothing of the power-on state, and the FEEDs go on from its register 0x00. -/
theorem bootFromAnyPowerOnState : Obligations.BootFromAnyPowerOnState := by
  unfold Obligations.BootFromAnyPowerOnState
  rintro power host ps hne hrst t rfl
  rw [runEdges_of_rst hne hrst]
  refine ⟨rfl, rfl, fun w => rfl, fun bytes => ?_⟩
  obtain ⟨t, hsend, hcrc, hbusy⟩ := sendWords_feeds bytes [encode .read]
    (resetRegisters_busy (State.powerOn power host))
  refine ⟨respond (stuff t.crc) false t, ?_, ?_, rfl⟩
  · rw [messageWords, List.tail_cons, hsend, sendWords, sendWord_read hbusy]
    rfl
  · rw [respond_rspData, hcrc]
    rfl

/-- Where no word is accepted, the edge does not read `cmd` (spec R10). -/
theorem edge_cmd_irrelevant {p : Pins} {s : State} (h : accepts p s = false) (w : Word) :
    edge { p with cmd := w } s = edge p s := by
  obtain ⟨hr, he⟩ | ⟨hr, hb, he⟩ | ⟨hr, hb, hv, -⟩ | ⟨hr, hb, hv, he⟩ := edge_cases p s
  · exact (edge_of_rst { p with cmd := w } s hr).trans he.symm
  · exact (edge_of_busy { p with cmd := w } s hr hb).trans he.symm
  · simp [(accepts_iff p s).2 ⟨hr, hb, hv⟩] at h
  · exact (edge_of_quiet { p with cmd := w } s hr hb hv).trans he.symm

/-- Settles O23: a word is taken at its accept edge only, and no other edge reads `cmd`. -/
theorem commandTransfersAtItsAcceptEdge : Obligations.CommandTransfersAtItsAcceptEdge := by
  unfold Obligations.CommandTransfersAtItsAcceptEdge
  refine ⟨fun p s => ⟨?_, rfl, edge_cmd_irrelevant⟩, fun s rst => ⟨rfl, rfl⟩⟩
  simp [accepts, and_assoc]

/-- Settles O24: of the three kinds of edge only a response edge shows a response, and only reset and a response edge
write the other two registers. -/
theorem responseIsValidForOneCycle : Obligations.ResponseIsValidForOneCycle := by
  unfold Obligations.ResponseIsValidForOneCycle
  intro p s
  change ((edge p s).rspValid = true ↔ p.rst = false ∧ IsResponseEdge p s) ∧ _
  obtain ⟨hr, hv⟩ | ⟨hr, hresp, hv⟩ | ⟨hr, hresp, hv, hkept⟩ := edge_response_cases p s
  · simp [hr, hv, respond]
  · simp [hr, hv, hresp, respond]
  · exact ⟨by simp [hv, hresp], fun _ _ => hkept, fun _ _ => rfl⟩

/-- Settles O25: of the four kinds of edge the quiet one keeps `crc`, and so does an accept edge but CLEAR's. -/
theorem onlyBitStepClearAndResetWriteCrc : Obligations.OnlyBitStepClearAndResetWriteCrc := by
  unfold Obligations.OnlyBitStepClearAndResetWriteCrc
  intro p s hne
  obtain ⟨hr, he⟩ | ⟨hr, hb, he⟩ | ⟨hr, hb, hv, he⟩ | ⟨-, -, -, he⟩ := edge_cases p s <;>
    rw [he] at hne ⊢
  · exact .inl ⟨hr, rfl⟩
  · exact .inr (.inl ⟨hr, hb, feedEdge_crc s⟩)
  · have hclear : decode p.cmd = .legal .clear :=
      by_contra fun h => hne (acceptWord_crc_of_not_clear s h)
    refine .inr (.inr ⟨(accepts_iff p s).2 ⟨hr, hb, hv⟩, hclear, ?_⟩)
    rw [acceptWord_of_legal s hclear]
    rfl
  · exact absurd rfl hne

/-- Before its eighth bit a FEED in progress stays busy, and `cnt` counts its edges (spec R7, R8). -/
theorem runEdges_within_feed (ps : List Pins) {s : State} (hb : s.busy = true)
    (hps : ∀ p ∈ ps, p.rst = false) (hlen : ps.length < 8 - s.cnt.toNat) :
    (runEdges ps s).busy = true ∧ (runEdges ps s).cnt.toNat = s.cnt.toNat + ps.length := by
  induction ps generalizing s with
  | nil => exact ⟨hb, rfl⟩
  | cons p qs ih =>
    obtain ⟨hp, hqs⟩ := List.forall_mem_cons.1 hps
    rw [List.length_cons] at hlen
    rw [runEdges_cons, edge_of_busy p s hp hb]
    obtain ⟨hc, -⟩ | ⟨hc, he⟩ := feedEdge_cases s
    · simp [hc] at hlen
    · have hbusy : (feedEdge s).busy = true := by simp [he, hb]
      have hcnt : (feedEdge s).cnt.toNat = s.cnt.toNat + 1 := by simp [he, cnt_succ_toNat hc]
      obtain ⟨hbusy', hcnt'⟩ := ih hbusy hqs (by omega)
      exact ⟨hbusy', by rw [hcnt', hcnt, List.length_cons]; omega⟩

/-- Settles O30: the FEED counts its edges, and its last one is the end of its rest. -/
theorem feedEndsAfterItsEighthBit : Obligations.FeedEndsAfterItsEighthBit := by
  unfold Obligations.FeedEndsAfterItsEighthBit
  intro s ps hb hps
  refine ⟨runEdges_within_feed ps hb hps, fun hlen => ?_⟩
  rw [runEdges_rest_of_feed ps s hps hb (hlen.trans (edgesLeft_of_busy hb).symm)]
  exact ⟨rfl, rfl, rfl, rfl⟩

/-! ### What a host can see of the block -/

/-- The response a cycle shows, if it shows one (spec R9). -/
def shownResponse (s : State) : Option Response := if s.rspValid then some (response s) else none

/-- The responses of a run, edge by edge. -/
theorem responses_cons (p : Pins) (ps : List Pins) (s : State) :
    responses (p :: ps) s = (shownResponse (edge p s)).toList ++ responses ps (edge p s) := by
  unfold shownResponse
  rw [responses]
  split <;> rfl

/-- Two blocks that answer every host alike from now on: `dsh` and `cnt` count only while a FEED is in progress (spec
R11), and the response registers do not. -/
structure AlikeToHost (s t : State) : Prop where
  crc  : s.crc = t.crc
  busy : s.busy = t.busy
  feed : s.busy = true → s.dsh = t.dsh ∧ s.cnt = t.cnt

/-- Alike and not busy: equal registers of the CRC are enough. -/
theorem AlikeToHost.of_not_busy {s t : State} (hs : s.busy = false) (ht : t.busy = false)
    (hc : s.crc = t.crc) : AlikeToHost s t :=
  ⟨hc, hs.trans ht.symm, fun h => by simp [hs] at h⟩

/-- Blocks that are alike accept the same words. -/
theorem AlikeToHost.accepts_eq {s t : State} (h : AlikeToHost s t) (p : Pins) :
    accepts p s = accepts p t := by
  simp [accepts, cmdReady, h.busy]

/-- An accepted word leaves ready blocks alike, and brings the same response. -/
theorem AlikeToHost.after_acceptWord {s t : State} (h : AlikeToHost s t) (hb : s.busy = false) (w : Word) :
    AlikeToHost (acceptWord w s) (acceptWord w t) ∧
      shownResponse (acceptWord w s) = shownResponse (acceptWord w t) := by
  obtain ⟨d, hd, hs⟩ | ⟨hd, hs⟩ := acceptWord_cases w s
  · rw [hs, acceptWord_of_feed t hd]
    exact ⟨⟨h.crc, rfl, fun _ => ⟨rfl, rfl⟩⟩, rfl⟩
  · rw [hs, acceptWord_of_not_feed t hd]
    refine ⟨.of_not_busy hb (h.busy ▸ hb) ?_, ?_⟩
    · rw [answerWord_crc, answerWord_crc, h.crc]
    · simp [shownResponse, response, h.crc]

/-- One bit of a FEED in progress leaves blocks alike, and the eighth brings the same response. -/
theorem AlikeToHost.after_feedEdge {s t : State} (h : AlikeToHost s t) (hb : s.busy = true) :
    AlikeToHost (feedEdge s) (feedEdge t) ∧
      shownResponse (feedEdge s) = shownResponse (feedEdge t) := by
  obtain ⟨hdsh, hcnt⟩ := h.feed hb
  have hcrc : (feedEdge s).crc = (feedEdge t).crc := by simp [h.crc, hdsh]
  have hshift : (feedEdge s).dsh = (feedEdge t).dsh := by simp [hdsh]
  obtain ⟨hs, hes⟩ | ⟨hs, hes⟩ := feedEdge_cases s <;>
    obtain ⟨ht, het⟩ | ⟨ht, het⟩ := feedEdge_cases t
  · exact ⟨.of_not_busy (by simp [hes]) (by simp [het]) hcrc, by simp [shownResponse, response, hes, het]⟩
  · exact absurd (hcnt ▸ hs) ht
  · exact absurd (hcnt ▸ ht) hs
  · exact ⟨⟨hcrc, by simp [hes, het, h.busy], fun _ => ⟨hshift, by simp [hes, het, hcnt]⟩⟩,
      by simp [shownResponse, hes, het]⟩

/-- Every edge leaves blocks alike, and brings the same response. -/
theorem AlikeToHost.after_edge {s t : State} (h : AlikeToHost s t) (p : Pins) :
    AlikeToHost (edge p s) (edge p t) ∧
      shownResponse (edge p s) = shownResponse (edge p t) := by
  obtain ⟨hr, he⟩ | ⟨hr, hb, he⟩ | ⟨hr, hb, hv, he⟩ | ⟨hr, hb, hv, he⟩ := edge_cases p s <;> rw [he]
  · rw [edge_of_rst p t hr]
    exact ⟨.of_not_busy rfl rfl rfl, rfl⟩
  · rw [edge_of_busy p t hr (h.busy ▸ hb)]
    exact h.after_feedEdge hb
  · rw [edge_of_offer p t hr (h.busy ▸ hb) hv]
    exact h.after_acceptWord hb p.cmd
  · rw [edge_of_quiet p t hr (h.busy ▸ hb) hv]
    exact ⟨.of_not_busy hb (h.busy ▸ hb) h.crc, rfl⟩

/-- A run of edges cannot tell apart blocks that are alike. -/
theorem AlikeToHost.run {s t : State} (h : AlikeToHost s t) (ps : List Pins) :
    responses ps s = responses ps t ∧ acceptedWords ps s = acceptedWords ps t ∧
      AlikeToHost (runEdges ps s) (runEdges ps t) := by
  induction ps generalizing s t with
  | nil => exact ⟨rfl, rfl, h⟩
  | cons p ps ih =>
    obtain ⟨hedge, hshown⟩ := h.after_edge p
    obtain ⟨hresp, hacc, hrun⟩ := ih hedge
    refine ⟨?_, ?_, hrun⟩
    · rw [responses_cons, responses_cons, hshown, hresp]
    · rw [acceptedWords, acceptedWords, h.accepts_eq, hacc]

/-- Settles O26: without a FEED in progress equal `crc` makes two blocks alike to every host. -/
theorem onlyCrcMattersBetweenCommands : Obligations.OnlyCrcMattersBetweenCommands := by
  unfold Obligations.OnlyCrcMattersBetweenCommands
  intro ps s t hs ht hc
  obtain ⟨hresp, hacc, hend⟩ := (AlikeToHost.of_not_busy hs ht hc).run ps
  exact ⟨hresp, hacc, hend.crc, hend.busy⟩

end Sys2Proof.Machine
end

section
/-! PROOFS. A run of clock edges as the transactions it completes (spec R22, R63, R72, R75): the transaction level keeps
in step with the block while a FEED is still in progress. -/

namespace Sys2Proof.Machine

/-- A run of transactions in two parts. -/
theorem runTransactions_append (c : Byte) (es fs : List Transaction) :
    runTransactions c (es ++ fs) =
      ((runTransactions (runTransactions c es).1 fs).1,
        (runTransactions c es).2 ++ (runTransactions (runTransactions c es).1 fs).2) := by
  induction es generalizing c with
  | nil => rfl
  | cons e es ih => cases e <;> simp [runTransactions, ih]

/-- A run of the one transaction of a word. -/
theorem runTransactions_command (c : Byte) (w : Word) :
    runTransactions c [.command w] = ((transact c w).1, [(transact c w).2]) := rfl

/-- A FEED's transaction (spec R49). -/
theorem transact_of_feed {w : Word} {d : Byte} (c : Byte) (h : decode w = .legal (.feed d)) :
    transact c w = (byteStep c d, { data := 0x00#8, err := false }) := by
  simp [transact, h]

/-! ### The register a block comes to -/

/-- The register once the FEED in progress, if there is one, has fed the bits left in `dsh`. -/
def settledCrc (s : State) : Byte := feedBits s.crc (fedBits (edgesLeft s) s.dsh)

/-- A byte just loaded settles as its byte step (spec R38, R75). -/
theorem settledCrc_loadByte (d : Byte) (s : State) :
    settledCrc (noResponse (loadByte d s)) = byteStep s.crc d := by
  change feedBits s.crc (fedBits 8 d) = byteStep s.crc d
  rw [fedBits_eight, byteStep]

/-- A ready block has nothing left to feed. -/
theorem settledCrc_of_not_busy {s : State} (hb : s.busy = false) : settledCrc s = s.crc := by
  simp [settledCrc, edgesLeft_of_not_busy hb]

/-- Feeding one bit leaves the register the FEED comes to as it was. -/
theorem settledCrc_feedEdge {s : State} (hb : s.busy = true) : settledCrc (feedEdge s) = settledCrc s := by
  rw [settledCrc, settledCrc, edgesLeft_feedEdge hb, fedBits_succ, feedBits_cons, feedEdge_crc, feedEdge_dsh]

/-! ### The block in step with the transaction level -/

/-- The transaction level stands at register `c`: that of a ready block, or the one from which the pending word's
transaction gives what the FEED in progress comes to. -/
structure InStep (c : Byte) (pending : Option Word) (s : State) : Prop where
  ready : s.busy = false → c = s.crc
  feed  : s.busy = true →
    ∃ w, pending = some w ∧ transact c w = (settledCrc s, { data := 0x00#8, err := false })

/-- A ready block is in step with its own register, whatever word was pending. -/
theorem InStep.of_not_busy {s : State} (hb : s.busy = false) (pending : Option Word) :
    InStep s.crc pending s :=
  ⟨fun _ => rfl, fun h => by simp [hb] at h⟩

/-- The edge `p` completes some transactions, which give the response it shows and end in step with the block. -/
def EdgeIsItsTransactions (c : Byte) (pending : Option Word) (p : Pins) (s : State) : Prop :=
  ∃ es c' pending',
    (∀ ps, completed (p :: ps) pending s = es ++ completed ps pending' (edge p s)) ∧
    runTransactions c es = (c', (shownResponse (edge p s)).toList) ∧
    InStep c' pending' (edge p s)

/-- A reset is the one transaction of its edge, in the place of a FEED in progress (spec R72). -/
theorem edgeIsItsTransactions_of_rst (c : Byte) (pending : Option Word) {p : Pins} (s : State)
    (hr : p.rst = true) : EdgeIsItsTransactions c pending p s := by
  refine ⟨[.reset], 0x00#8, none, fun ps => by simp [completed, hr], ?_, ?_⟩
  all_goals rw [edge_of_rst p s hr]
  · rfl
  · exact .of_not_busy (resetRegisters_busy s) none

/-- A FEED in progress completes nothing before its eighth bit, and then the pending word. -/
theorem edgeIsItsTransactions_of_busy {c : Byte} {pending : Option Word} {p : Pins} {s : State}
    (h : InStep c pending s) (hr : p.rst = false) (hb : s.busy = true) :
    EdgeIsItsTransactions c pending p s := by
  obtain ⟨w, rfl, hw⟩ := h.feed hb
  have he := edge_of_busy p s hr hb
  have hsettled := settledCrc_feedEdge hb
  obtain ⟨-, hf⟩ | ⟨-, hf⟩ := feedEdge_cases s
  · have hready : (feedEdge s).busy = false := by simp [hf]
    have hcrc : settledCrc s = (feedEdge s).crc := by rw [← hsettled, settledCrc_of_not_busy hready]
    refine ⟨[.command w], (feedEdge s).crc, none, fun ps => ?_, ?_, ?_⟩
    · simp [completed, hr, hb, he, hready]
    · rw [runTransactions_command, hw, hcrc, he, hf]
      rfl
    · rw [he]
      exact .of_not_busy hready none
  · have hbusy : (feedEdge s).busy = true := by simp [hf, hb]
    refine ⟨[], c, some w, fun ps => ?_, ?_, ?_⟩
    · simp [completed, hr, hb, he, hbusy]
    · rw [he, hf]
      rfl
    · rw [he]
      exact ⟨fun hready => by simp [hbusy] at hready, fun _ => ⟨w, rfl, hw.trans (by rw [hsettled])⟩⟩

/-- An accepted FEED is pending from its accept edge on, and every other word is complete there. -/
theorem edgeIsItsTransactions_of_offer (pending : Option Word) {p : Pins} {s : State}
    (hr : p.rst = false) (hb : s.busy = false) (hv : p.cmdValid = true) :
    EdgeIsItsTransactions s.crc pending p s := by
  have he := edge_of_offer p s hr hb hv
  obtain ⟨d, hd, ha⟩ | ⟨-, ha⟩ := acceptWord_cases p.cmd s <;> rw [ha] at he
  · refine ⟨[], s.crc, some p.cmd, fun ps => ?_, ?_, ?_⟩
    · simp [completed, hr, hb, hv, he]
    · rw [he]
      rfl
    · rw [he]
      refine ⟨fun hready => by simp at hready, fun _ => ⟨p.cmd, rfl, ?_⟩⟩
      rw [transact_of_feed s.crc hd, settledCrc_loadByte]
  · have hready : (answerWord p.cmd s).busy = false := hb
    refine ⟨[.command p.cmd], (answerWord p.cmd s).crc, none, fun ps => ?_, ?_, ?_⟩
    · simp [completed, hr, hb, hv, he]
    · rw [he]
      rfl
    · rw [he]
      exact .of_not_busy hready none

/-- A ready block that is offered nothing completes nothing. -/
theorem edgeIsItsTransactions_of_quiet (pending : Option Word) {p : Pins} {s : State}
    (hr : p.rst = false) (hb : s.busy = false) (hv : p.cmdValid = false) :
    EdgeIsItsTransactions s.crc pending p s := by
  refine ⟨[], s.crc, none, fun ps => by simp [completed, hr, hb, hv], ?_, ?_⟩
  all_goals rw [edge_of_quiet p s hr hb hv]
  · rfl
  · exact .of_not_busy (s := noResponse s) hb none

/-- Every edge of a block in step is its transactions. -/
theorem edgeIsItsTransactions {c : Byte} {pending : Option Word} {s : State} (h : InStep c pending s) (p : Pins) :
    EdgeIsItsTransactions c pending p s := by
  obtain ⟨hr, -⟩ | ⟨hr, hb, -⟩ | ⟨hr, hb, hv, -⟩ | ⟨hr, hb, hv, -⟩ := edge_cases p s
  · exact edgeIsItsTransactions_of_rst c pending s hr
  · exact edgeIsItsTransactions_of_busy h hr hb
  · exact h.ready hb ▸ edgeIsItsTransactions_of_offer pending hr hb hv
  · exact h.ready hb ▸ edgeIsItsTransactions_of_quiet pending hr hb hv

/-- From a block in step, so is every run that ends with the block ready. -/
theorem InStep.run {c : Byte} {pending : Option Word} {s : State} (h : InStep c pending s) {ps : List Pins}
    (hend : (runEdges ps s).busy = false) :
    runTransactions c (completed ps pending s) = ((runEdges ps s).crc, responses ps s) := by
  induction ps generalizing c pending s with
  | nil => rw [h.ready hend]; rfl
  | cons p ps ih =>
    obtain ⟨es, c', pending', hcompleted, hes, hnext⟩ := edgeIsItsTransactions h p
    rw [hcompleted, runTransactions_append, hes, ih hnext hend, responses_cons, runEdges_cons]

/-- Settles O28: an idle block is in step with its own register, and every edge keeps the two levels in step. -/
theorem everyRunIsItsCompletedTransactions : Obligations.EveryRunIsItsCompletedTransactions := by
  unfold Obligations.EveryRunIsItsCompletedTransactions
  rintro ps s ⟨hb, -, -⟩ hend
  exact (InStep.of_not_busy hb none).run hend

end Sys2Proof.Machine
end

section
/-! PROOFS. The commands without side effect, and repetition (spec R21). -/

namespace Sys2Proof.Machine

/-- A READRAW sent to a ready block. -/
theorem sendWord_readraw {s : State} (h : s.busy = false) :
    sendWord (encode .readraw) s = .next (respond s.crc false s) := by
  rw [sendWord_of_not_busy s _ h, execWord_eq, afterWord, decode_encode]

/-- READ, READRAW and an illegal word only respond. -/
theorem afterWord_eq_respond {w : Word} (s : State)
    (hw : decode w = .legal .read ∨ decode w = .legal .readraw ∨ decode w = .illegal) :
    ∃ data err, afterWord w s = respond data err s := by
  unfold afterWord
  obtain h | h | h := hw <;> rw [h]
  · exact ⟨stuff s.crc, false, rfl⟩
  · exact ⟨s.crc, false, rfl⟩
  · exact ⟨0x00#8, true, rfl⟩

/-- A list of words that only respond leaves the four registers of a ready block as they were. -/
theorem sendWords_keeps_registers {ws : List Word} {s : State} (hb : s.busy = false)
    (hws : ∀ w ∈ ws, decode w = .legal .read ∨ decode w = .legal .readraw ∨ decode w = .illegal) :
    ∃ t, sendWords ws s = .next t ∧
      t.crc = s.crc ∧ t.dsh = s.dsh ∧ t.cnt = s.cnt ∧ t.busy = s.busy := by
  induction ws generalizing s with
  | nil => exact ⟨s, rfl, rfl, rfl, rfl, rfl⟩
  | cons w ws ih =>
    obtain ⟨hw, hws⟩ := List.forall_mem_cons.1 hws
    obtain ⟨data, err, hafter⟩ := afterWord_eq_respond s hw
    obtain ⟨t, hsend, hkept⟩ := ih (s := respond data err s) hb hws
    refine ⟨t, ?_, hkept⟩
    rw [sendWords, sendWord_of_not_busy s w hb, execWord_eq, hafter]
    exact hsend

/-- CLEAR a second time changes nothing. -/
theorem execClear_idempotent {s t : State} (h : exec .clear s = .next t) : exec .clear t = .next t := by
  obtain rfl : respond 0x00#8 false (clearCrc s) = t := Host.Outcome.next.inj h
  rfl

/-- FEED a second time goes on from the register of the first: from reset, 0x40 gives 0x64 and then another value. -/
theorem execFeed_not_idempotent :
    ∃ (d : Byte) (s t u : State), exec (.feed d) s = .next t ∧ exec (.feed d) t = .next u ∧ u.crc ≠ t.crc :=
  ⟨0x40#8, State.reset, _, _, rfl, rfl, by decide +kernel⟩

/-- Settles O47: the words leave the block ready and its registers as they were, so a READ or READRAW after them
answers from the same `crc`. -/
theorem readsHaveNoSideEffect : Obligations.ReadsHaveNoSideEffect := by
  unfold Obligations.ReadsHaveNoSideEffect
  refine ⟨fun ws s hb hws => ?_, fun s t => execClear_idempotent, execFeed_not_idempotent⟩
  obtain ⟨t, hsend, hcrc, hdsh, hcnt, hbusy⟩ := sendWords_keeps_registers hb hws
  have ht : t.busy = false := hbusy.trans hb
  exact ⟨t, hsend, hcrc, hdsh, hcnt, hbusy,
    ⟨_, sendWord_read ht, by rw [respond_rspData, hcrc]⟩,
    ⟨_, sendWord_readraw ht, by rw [respond_rspData, hcrc]⟩⟩

end Sys2Proof.Machine
end

section
/-! PROOFS. The encoding (spec R25 to R31): a command and its word determine each other, the words of each row of the
opcode map, and how many words are legal. -/

namespace Sys2Proof.Machine

/-! ### Words and their fields -/

/-- A word taken as a table word is itself. -/
theorem tableWord_toNat (w : Word) : tableWord 16 w.toNat = w := by
  simp [tableWord, Nat.mod_eq_of_lt w.isLt]

/-- Two fields have a given value exactly when the word is those fields in order (spec R25). -/
theorem fields_eq_iff {w : Word} {op data : Byte} :
    opOf w = op ∧ dataOf w = data ↔ w = op ++ data := by
  constructor
  · rintro ⟨rfl, rfl⟩
    exact (opOf_append_dataOf w).symm
  · rintro rfl
    exact ⟨opOf_append op data, dataOf_append op data⟩

/-- The decoder on a word written as its two fields (spec R31). -/
theorem decode_append (op data : Byte) : decode (op ++ data) =
    if op = 0x01#8 ∧ data = 0x00#8 then .legal .clear
    else if op = 0x02#8 then .legal (.feed data)
    else if op = 0x03#8 ∧ data = 0x00#8 then .legal .read
    else if op = 0x04#8 ∧ data = 0x00#8 then .legal .readraw
    else .illegal := by
  simp only [decode, opOf_append, dataOf_append]

/-! ### A command and its word -/

/-- A word decodes to a command exactly when it is the command's word: each legal case of the decoder fixes both
fields. -/
theorem decode_eq_legal_iff {w : Word} {i : Instr} : decode w = .legal i ↔ w = encode i := by
  constructor
  · intro h
    obtain ⟨hw, hop, hdata⟩ | ⟨hw, hop⟩ | ⟨hw, hop, hdata⟩ | ⟨hw, hop, hdata⟩ | ⟨hw, -⟩ := decode_cases w <;>
      cases hw.symm.trans h
    · exact fields_eq_iff.1 ⟨hop, hdata⟩
    · exact fields_eq_iff.1 ⟨hop, rfl⟩
    · exact fields_eq_iff.1 ⟨hop, hdata⟩
    · exact fields_eq_iff.1 ⟨hop, hdata⟩
  · rintro rfl
    exact decode_encode i

/-- Settles O2: the decoder reads every command back, and a command's word has no bits above the port's 16. -/
theorem decodeOfEncode : Obligations.DecodeOfEncode := by
  unfold Obligations.DecodeOfEncode
  intro i _
  refine ⟨decode_encode i, ?_⟩
  rw [decodeTableWord, tableWord_toNat, decode_encode]

/-- Settles O3: the two fields of a word that decodes to a command are the command's. -/
theorem legalWordIsTheEncoding : Obligations.LegalWordIsTheEncoding :=
  fun _ _ h => (decode_eq_legal_iff.1 h).symm

/-- Settles O4: the decoder on the two fields, and a busy block is not ready for any word. -/
theorem decodeReadsOpAndData : Obligations.DecodeReadsOpAndData := by
  unfold Obligations.DecodeReadsOpAndData
  refine ⟨decode_append, fun p s hb => ?_⟩
  simp [accepts, cmdReady, hb]

/-- Settles O1: the decoder evaluated on each word. -/
theorem writtenOutWordsDecode : Obligations.WrittenOutWordsDecode := by
  unfold Obligations.WrittenOutWordsDecode
  decide

/-! ### The rows of the opcode map -/

/-- A FEED's word is its OP with the byte in the low half. -/
theorem encode_feed (d : Byte) : encode (.feed d) = 0x0200#16 ||| d.setWidth 16 := by
  rw [encode, opcode, dataField, BitVec.append_def, BitVec.setWidth'_eq]
  rfl

/-- A row whose mask takes the whole word has one word, that of its command. -/
theorem decode_eq_legal_iff_and_allOnes (w : Word) (i : Instr) :
    decode w = .legal i ↔ w &&& 0xFFFF#16 = encode i := by
  rw [decode_eq_legal_iff, show 0xFFFF#16 = BitVec.allOnes 16 from rfl, BitVec.and_allOnes]

/-- The mask of FEED's row takes the OP alone. -/
theorem and_feedMask_eq_iff (w : Word) : w &&& 0xFF00#16 = 0x0200#16 ↔ opOf w = 0x02#8 := by
  have hmasked : w &&& 0xFF00#16 = opOf w ++ 0x00#8 := by
    calc w &&& 0xFF00#16 = (opOf w ++ dataOf w) &&& (BitVec.allOnes 8 ++ 0x00#8) := by
          rw [opOf_append_dataOf]; rfl
      _ = opOf w ++ 0x00#8 := by
          rw [BitVec.and_append, BitVec.and_allOnes, BitVec.and_zero]
  rw [hmasked, show 0x0200#16 = 0x02#8 ++ 0x00#8 from rfl]
  exact BitVec.append_left_inj 0x00#8

/-- The words of FEED's row: any byte may stand in DATA. -/
theorem decode_eq_feed_iff (w : Word) (d : Byte) :
    decode w = .legal (.feed d) ↔ w &&& 0xFF00#16 = 0x0200#16 ∧ d = dataOf w := by
  rw [decode_eq_legal_iff, and_feedMask_eq_iff, eq_comm (a := d)]
  exact fields_eq_iff.symm

/-! ### How many words are legal -/

/-- The commands are the bytes of FEED and the three without an operand. -/
def instrEquiv : Instr ≃ Byte ⊕ Fin 3 where
  toFun
    | .feed d => .inl d
    | .clear => .inr 0
    | .read => .inr 1
    | .readraw => .inr 2
  invFun
    | .inl d => .feed d
    | .inr 0 => .clear
    | .inr 1 => .read
    | .inr 2 => .readraw
  left_inv i := by cases i <;> rfl
  right_inv
    | .inl _ => rfl
    | .inr 0 => rfl
    | .inr 1 => rfl
    | .inr 2 => rfl

/-- There are `2 ^ n` words of `n` bits. -/
theorem card_bitVec (n : Nat) : Nat.card (BitVec n) = 2 ^ n := by
  rw [Nat.card_eq_fintype_card, ← FinEnum.card_eq_fintypeCard, FinEnum.card_bitVec]

/-- There are 256 FEEDs and three other commands. -/
theorem card_instr : Nat.card Instr = 259 := by
  rw [Nat.card_congr instrEquiv, Nat.card_sum, card_bitVec, Nat.card_fin]
  rfl

/-- Different commands have different words. -/
theorem encode_injective : Function.Injective encode := fun i j h =>
  Decoded.legal.inj (by rw [← decode_encode i, h, decode_encode j])

/-- The legal words are the words of the commands. -/
theorem setOf_legal_eq_range : {w : Word | decode w ≠ .illegal} = Set.range encode := by
  ext w
  constructor
  · intro h
    cases hw : decode w with
    | illegal => exact absurd hw h
    | legal i => exact ⟨i, (decode_eq_legal_iff.1 hw).symm⟩
  · rintro ⟨i, rfl⟩
    simp

/-- One legal word per command. -/
theorem ncard_legal : {w : Word | decode w ≠ .illegal}.ncard = 259 := by
  rw [setOf_legal_eq_range, Set.ncard_range_of_injective encode_injective, card_instr]

/-- The rest of the 65536 words. -/
theorem ncard_illegal : {w : Word | decode w = .illegal}.ncard = 65277 := by
  have hcompl : {w : Word | decode w = .illegal} = {w : Word | decode w ≠ .illegal}ᶜ := by
    ext w
    simp
  rw [hcompl]
  apply Set.ncard_compl_of_ncard_eq_add
  rw [ncard_legal, card_bitVec]
  rfl

/-- Settles O5: the words under each row's mask, and one word per command. -/
theorem legalWordsAreTheOpcodeMap : Obligations.LegalWordsAreTheOpcodeMap := by
  unfold Obligations.LegalWordsAreTheOpcodeMap
  exact ⟨rfl, rfl, rfl, encode_feed, fun w => decode_eq_legal_iff_and_allOnes w .clear, decode_eq_feed_iff,
    fun w => decode_eq_legal_iff_and_allOnes w .read, fun w => decode_eq_legal_iff_and_allOnes w .readraw, ncard_legal⟩

/-! ### The illegal words -/

/-- The illegal space of spec R28: another OP, or DATA on a command without an operand. -/
theorem decode_append_eq_illegal_iff (op data : Byte) : decode (op ++ data) = .illegal ↔
    (op ≠ 0x01#8 ∧ op ≠ 0x02#8 ∧ op ≠ 0x03#8 ∧ op ≠ 0x04#8) ∨
    ((op = 0x01#8 ∨ op = 0x03#8 ∨ op = 0x04#8) ∧ data ≠ 0x00#8) := by
  rw [decode_append]
  by_cases h1 : op = 0x01#8
  · simp [h1]
  by_cases h2 : op = 0x02#8
  · simp [h2]
  by_cases h3 : op = 0x03#8
  · simp [h3]
  by_cases h4 : op = 0x04#8
  · simp [h4]
  · simp [h1, h2, h3, h4]

/-- An illegal word sent to a ready block is only answered (spec R58). -/
theorem sendWord_illegal {w : Word} {s : State} (hw : decode w = .illegal) (hb : s.busy = false) :
    sendWord w s = .next (illegalCommand s) := by
  rw [sendWord_of_not_busy s w hb, execWord_eq, afterWord, hw]

/-- Settles O6: the fields of an illegal word, the rest of the count of O5, and the error response. -/
theorem otherWordsAreIllegal : Obligations.OtherWordsAreIllegal := by
  unfold Obligations.OtherWordsAreIllegal
  refine ⟨decode_append_eq_illegal_iff, ncard_illegal, fun w s => sendWord_illegal, fun data => ?_⟩
  exact (decode_append_eq_illegal_iff 0x00#8 data).2 (.inl (by decide))

end Sys2Proof.Machine
end

section
/-! PROOFS. The assembler on lines whose operands are numbers (spec R32, R33), and the message that `CRC7` expands to. -/

namespace Sys2Proof.Machine

/-! ### One operand -/

/-- The value of a byte is in the range that FEED accepts. -/
theorem inByteRange_toNat (d : Byte) : inByteRange (d.toNat : Int) = true := by
  have hlt := d.isLt
  simp only [inByteRange, Bool.and_eq_true, decide_eq_true_eq]
  omega

/-- A value outside 0 to 255 is not. -/
theorem inByteRange_of_outside {v : Int} (h : v < 0 ∨ v > 255) : inByteRange v = false := by
  simp only [inByteRange, Bool.and_eq_false_iff, decide_eq_false_iff_not]
  omega

/-- A word is the word of its value. -/
theorem ofInt_toNat {n : Nat} (w : BitVec n) : BitVec.ofInt n (w.toNat : Int) = w := by
  rw [BitVec.ofInt_natCast, BitVec.ofNat_toNat, BitVec.setWidth_eq]

/-- FEED with the value of a byte. -/
theorem assembleFeed_toNat (d : Byte) : assembleFeed (d.toNat : Int) = .words [encode (.feed d)] := by
  rw [assembleFeed, if_pos (inByteRange_toNat d), ofInt_toNat]

/-- FEED refuses the value it would have to truncate. -/
theorem assembleFeed_of_outside {v : Int} (h : v < 0 ∨ v > 255) :
    assembleFeed v = .refused (.validationError v) := by
  simp [assembleFeed, inByteRange_of_outside h]

/-- `.word` with the value of a word. -/
theorem assembleRaw_toNat (w : Word) : assembleRaw (w.toNat : Int) = .words [w] := by
  have hrange : 0 ≤ (w.toNat : Int) ∧ (w.toNat : Int) ≤ 65535 := by
    have hlt := w.isLt
    omega
  rw [assembleRaw, if_pos hrange, ofInt_toNat]

theorem assembleLine_feed (v : Int) : assembleLine ⟨.feed, [v]⟩ = assembleFeed v := rfl

theorem assembleLine_word (v : Int) : assembleLine ⟨.word, [v]⟩ = assembleRaw v := rfl

/-- CLEAR, READ and READRAW refuse every operand. -/
theorem assembleLine_operand_refused {m : Mnemonic} (v : Int) (vs : List Int)
    (h : m = .clear ∨ m = .read ∨ m = .readraw) :
    assembleLine ⟨m, v :: vs⟩ = .refused .operandCount := by
  obtain rfl | rfl | rfl := h <;> rfl

/-! ### The pseudo-instruction `CRC7` -/

/-- Parts of which none is refused give their words in order. -/
theorem joinAssembled_words (wss : List (List Word)) :
    joinAssembled (wss.map .words) = .words wss.flatten := by
  induction wss with
  | nil => rfl
  | cons ws wss ih => rw [List.map_cons, joinAssembled, ih, Assembled.append, List.flatten_cons]

/-- `CRC7` with the values of the message's bytes expands to the command sequence of the message. -/
theorem assembleLine_crc7 (bytes : List Byte) :
    assembleLine ⟨.crc7, bytes.map (fun b => (b.toNat : Int))⟩ = .words (messageWords bytes) := by
  have hfeeds : (bytes.map (fun b => (b.toNat : Int))).map assembleFeed =
      (bytes.map (fun b => [encode (.feed b)])).map .words := by
    simp only [List.map_map]
    exact List.map_congr_left fun b _ => assembleFeed_toNat b
  have hflat : (bytes.map (fun b => [encode (.feed b)])).flatten = bytes.map (fun b => encode (.feed b)) := by
    rw [← List.flatMap_def, List.map_eq_flatMap]
  calc assembleLine ⟨.crc7, bytes.map (fun b => (b.toNat : Int))⟩
      = joinAssembled (([encode .clear] :: (bytes.map (fun b => [encode (.feed b)]) ++ [[encode .read]])).map
          .words) := by
        rw [List.map_cons, List.map_append, ← hfeeds]
        rfl
    _ = .words (messageWords bytes) := by
        rw [joinAssembled_words, List.flatten_cons, List.flatten_append, hflat]
        rfl

/-- The command sequence of a message, word by word. -/
theorem messageWords_eq (bytes : List Byte) : messageWords bytes =
    0x0100#16 :: (bytes.map (fun b => 0x0200#16 ||| b.setWidth 16) ++ [0x0300#16]) := by
  simp only [messageWords, encode_feed]
  rfl

/-- A CLEAR sent to any block, which first completes the FEED in progress. -/
theorem sendWord_clear (s : State) :
    sendWord (encode .clear) s =
      .next (respond 0x00#8 false (clearCrc (waitReady (encode .clear) s))) := by
  rw [sendWord_eq, execWord_eq, afterWord, decode_encode]

/-- A message's command sequence sent to any block is answered by its `crc7` (spec R52). -/
theorem sendWords_messageWords (bytes : List Byte) (s : State) :
    ∃ t, sendWords (messageWords bytes) s = .next t ∧ t.rspData = crc7 bytes ∧ t.rspErr = false := by
  have hready := waitReady_busy (encode .clear) s
  obtain ⟨t, hsend, hcrc, hbusy⟩ := sendWords_feeds bytes [encode .read]
    (s := respond 0x00#8 false (clearCrc (waitReady (encode .clear) s))) hready
  refine ⟨respond (stuff t.crc) false t, ?_, ?_, rfl⟩
  · rw [messageWords, sendWords, sendWord_clear]
    simp only [hsend, sendWords, sendWord_read hbusy]
  · rw [respond_rspData, hcrc]
    rfl

/-- Settles O51: the expansion is the message's command sequence, whose last response is its `crc7`. -/
theorem crc7PseudoExpands : Obligations.Crc7PseudoExpands := by
  unfold Obligations.Crc7PseudoExpands
  refine ⟨fun bytes => ?_, fun bytes ws s h => ?_, rfl, by decide⟩
  · rw [assembleLine_crc7, messageWords_eq]
  · obtain rfl : messageWords bytes = ws := Assembled.words.inj ((assembleLine_crc7 bytes).symm.trans h)
    exact sendWords_messageWords bytes s

end Sys2Proof.Machine
end

section
/-! PROOFS. The assembler on text (spec R32): comments, line ends, the parts of a line, and numbers in decimal and
hexadecimal. The lexical details are those of log entry 7. -/

namespace Sys2Proof.Machine

/-! ### Comments, pieces and blanks -/

/-- A line without `;` has no comment. -/
theorem stripComment_eq_self {cs : List Char} (h : ';' ∉ cs) : stripComment cs = cs := by
  rw [stripComment, List.takeWhile_eq_self_iff]
  intro c hc
  simpa using ne_of_mem_of_not_mem hc h

/-- A comment goes, to the end of the line. -/
theorem stripComment_append {line : List Char} (comment : List Char) (h : ';' ∉ line) :
    stripComment (line ++ ';' :: comment) = stripComment line := by
  have hline : ∀ c ∈ line, (c != ';') = true := List.takeWhile_eq_self_iff.1 (stripComment_eq_self h)
  rw [stripComment_eq_self h, stripComment, List.takeWhile_append_of_pos hline]
  simp

/-- Up to its first separator a text is one piece. -/
theorem pieces_append {sep : Char} {cs : List Char} (rest : List Char) (h : sep ∉ cs) :
    pieces sep (cs ++ sep :: rest) = cs :: pieces sep rest := by
  induction cs with
  | nil => simp [pieces]
  | cons c cs ih =>
    rw [List.mem_cons, not_or] at h
    obtain ⟨hc, hcs⟩ := h
    simp [pieces, ih hcs, Ne.symm hc]

/-- A text without separator is one piece. -/
theorem pieces_of_not_mem {sep : Char} {cs : List Char} (h : sep ∉ cs) : pieces sep cs = [cs] := by
  induction cs with
  | nil => rfl
  | cons c cs ih =>
    rw [List.mem_cons, not_or] at h
    obtain ⟨hc, hcs⟩ := h
    simp [pieces, ih hcs, Ne.symm hc]

/-- Without a blank at either end there is nothing to trim. -/
theorem trim_eq_self {cs : List Char} (hfirst : ∀ c ∈ cs.head?, isBlank c = false)
    (hlast : ∀ c ∈ cs.getLast?, isBlank c = false) : trim cs = cs := by
  have hdrop : ∀ ds : List Char, (∀ c ∈ ds.head?, isBlank c = false) → ds.dropWhile isBlank = ds := by
    intro ds h
    cases ds with
    | nil => rfl
    | cons d ds => simp [h d rfl]
  rw [trim, hdrop cs hfirst, hdrop _ (by rwa [List.head?_reverse]), List.reverse_reverse]

/-- A blank at the start is trimmed. -/
theorem trim_cons_of_isBlank {c : Char} (cs : List Char) (h : isBlank c = true) : trim (c :: cs) = trim cs := by
  rw [trim, List.dropWhile_cons_of_pos h, trim]

/-! ### The parts of a line -/

/-- A name or one operand: at least one character, and none that ends a part or the line. -/
structure IsPart (cs : List Char) : Prop where
  ne_nil       : cs ≠ []
  no_blank     : ∀ c ∈ cs, isBlank c = false
  no_semicolon : ';' ∉ cs
  no_comma     : ',' ∉ cs

theorem IsPart.trim_eq {cs : List Char} (h : IsPart cs) : trim cs = cs :=
  trim_eq_self (fun c hc => h.no_blank c (List.mem_of_mem_head? hc))
    (fun c hc => h.no_blank c (List.mem_of_mem_getLast? hc))

theorem IsPart.cons {c : Char} {cs : List Char} (h : IsPart cs) (hblank : isBlank c = false) (hsemicolon : ';' ≠ c)
    (hcomma : ',' ≠ c) : IsPart (c :: cs) where
  ne_nil := List.cons_ne_nil c cs
  no_blank := List.forall_mem_cons.2 ⟨hblank, h.no_blank⟩
  no_semicolon := List.not_mem_cons_of_ne_of_not_mem hsemicolon h.no_semicolon
  no_comma := List.not_mem_cons_of_ne_of_not_mem hcomma h.no_comma

/-- The operand of a line that has one. -/
theorem operandsOf_part {cs : List Char} {v : Int} (h : IsPart cs) (hv : operandValue cs = some v) :
    operandsOf cs = some [v] := by
  rw [operandsOf, if_neg h.ne_nil, pieces_of_not_mem h.no_comma, allOperands, h.trim_eq, hv]
  rfl

/-- Each of the six names is one part. -/
theorem isPart_of_mnemonicOf {cs : List Char} {m : Mnemonic} (h : mnemonicOf cs = some m) : IsPart cs := by
  unfold mnemonicOf at h
  split_ifs at h with hcs hcs hcs hcs hcs hcs <;> subst hcs <;>
    exact ⟨by simp, by simp [isBlank], by simp, by simp⟩

/-- A line of a name and what follows it, from its first blank to a last character that is none. -/
theorem assembleTextLine_name_append {name rest : List Char} {m : Mnemonic} {vs : List Int}
    (hm : mnemonicOf name = some m) (hcomment : ';' ∉ rest) (hfirst : ∀ c ∈ rest.head?, isBlank c = true)
    (hlast : ∀ c ∈ rest.getLast?, isBlank c = false) (hvs : operandsOf (trim rest) = some vs) :
    assembleTextLine (name ++ rest) = assembleLine ⟨m, vs⟩ := by
  have hname : IsPart name := isPart_of_mnemonicOf hm
  have hstrip : stripComment (name ++ rest) = name ++ rest :=
    stripComment_eq_self (by simp [hname.no_semicolon, hcomment])
  have htrim : trim (name ++ rest) = name ++ rest := by
    apply trim_eq_self
    · rw [List.head?_append_of_ne_nil _ hname.ne_nil]
      exact fun c hc => hname.no_blank c (List.mem_of_mem_head? hc)
    · intro c hc
      rw [List.getLast?_append, Option.mem_def, Option.or_eq_some_iff] at hc
      obtain hc | ⟨-, hc⟩ := hc
      · exact hlast c hc
      · exact hname.no_blank c (List.mem_of_mem_getLast? hc)
  have hchars : ∀ c ∈ name, (!isBlank c) = true := fun c hc => by simp [hname.no_blank c hc]
  have htake : (name ++ rest).takeWhile (fun c => !isBlank c) = name := by
    rw [List.takeWhile_append_of_pos hchars]
    cases rest with
    | nil => simp
    | cons c cs => simp [hfirst c rfl]
  have hdrop : (name ++ rest).dropWhile (fun c => !isBlank c) = rest := by
    rw [List.dropWhile_append_of_pos hchars]
    cases rest with
    | nil => rfl
    | cons c cs => simp [hfirst c rfl]
  have hne : name ++ rest ≠ [] := by simp [hname.ne_nil]
  simp only [assembleTextLine, hstrip, htrim, htake, hdrop, if_neg hne, hm, hvs]

/-- A line that is a name alone. -/
theorem assembleTextLine_name {name : List Char} {m : Mnemonic} (hm : mnemonicOf name = some m) :
    assembleTextLine name = assembleLine ⟨m, []⟩ := by
  simpa using assembleTextLine_name_append (rest := []) (vs := []) hm (by simp) (by simp) (by simp) rfl

/-- A line of a name, a space and one operand. -/
theorem assembleTextLine_operand {name operand : List Char} {m : Mnemonic} {v : Int}
    (hm : mnemonicOf name = some m) (hoperand : IsPart operand) (hv : operandValue operand = some v) :
    assembleTextLine (name ++ ' ' :: operand) = assembleLine ⟨m, [v]⟩ := by
  apply assembleTextLine_name_append hm
  · simp [hoperand.no_semicolon]
  · simp [isBlank]
  · intro c hc
    rw [List.getLast?_cons_of_ne_nil hoperand.ne_nil] at hc
    exact hoperand.no_blank c (List.mem_of_mem_getLast? hc)
  · rw [trim_cons_of_isBlank operand rfl, hoperand.trim_eq, operandsOf_part hoperand hv]

/-! ### Numbers -/

/-- The assembler reads the library's digit characters, up to the `f` of base 16. -/
theorem digitValue_digitChar {b k : Nat} (hk : k < b) (hb : b ≤ 16) : digitValue b k.digitChar = some k := by
  have hk16 : k < 16 := by omega
  interval_cases k <;> simp [digitValue, Nat.digitChar, hk]

/-- One more digit at the end. -/
theorem digitsValue_concat (b : Nat) (cs : List Char) (c : Char) (acc : Nat) :
    digitsValue b (cs ++ [c]) acc =
      (digitsValue b cs acc).bind (fun n => (digitValue b c).map (fun v => n * b + v)) := by
  induction cs generalizing acc with
  | nil => simp [digitsValue, Option.map_eq_bind]
  | cons d cs ih => simp [digitsValue, ih, Option.bind_assoc]

/-- The digits of a number read back as the number. -/
theorem digitsValue_toDigits {b : Nat} (hb1 : 1 < b) (hb16 : b ≤ 16) (n : Nat) :
    digitsValue b (Nat.toDigits b n) 0 = some n := by
  induction n using Nat.strong_induction_on with
  | _ n ih =>
    by_cases hn : n < b
    · rw [Nat.toDigits_of_lt_base hn, digitsValue, digitValue_digitChar hn hb16]
      simp [digitsValue]
    · have hdiv : n / b < n := Nat.div_lt_self (by omega) hb1
      have hmod : n % b < b := Nat.mod_lt n (by omega)
      rw [Nat.toDigits_of_base_le hb1 (by omega), digitsValue_concat, ih _ hdiv, Option.bind_some,
        digitValue_digitChar hmod hb16, Option.map_some, Nat.div_add_mod']

/-- Every character of a number is a digit. -/
theorem exists_digitChar_of_mem_toDigits {b : Nat} (hb : 1 < b) {n : Nat} {c : Char}
    (hc : c ∈ Nat.toDigits b n) : ∃ k, c = Nat.digitChar k := by
  induction n using Nat.strong_induction_on with
  | _ n ih =>
    by_cases hn : n < b
    · rw [Nat.toDigits_of_lt_base hn, List.mem_singleton] at hc
      exact ⟨n, hc⟩
    · rw [Nat.toDigits_of_base_le hb (by omega), List.mem_append, List.mem_singleton] at hc
      obtain hc | hc := hc
      · exact ih _ (Nat.div_lt_self (by omega) hb) hc
      · exact ⟨n % b, hc⟩

/-- A character that is no digit stands in no number. -/
theorem not_mem_toDigits {b : Nat} (hb : 1 < b) (n : Nat) {c : Char} (hc : ∀ k, Nat.digitChar k ≠ c) :
    c ∉ Nat.toDigits b n := by
  intro hmem
  obtain ⟨k, hk⟩ := exists_digitChar_of_mem_toDigits hb hmem
  exact hc k hk.symm

/-- A number is one part of a line. -/
theorem isPart_toDigits {b : Nat} (hb : 1 < b) (n : Nat) : IsPart (Nat.toDigits b n) where
  ne_nil := Nat.toDigits_ne_nil
  no_blank c hc := by
    obtain ⟨k, rfl⟩ := exists_digitChar_of_mem_toDigits hb hc
    simp [isBlank, Nat.digitChar_ne]
  no_semicolon := not_mem_toDigits hb n fun _ => Nat.digitChar_ne ';' rfl
  no_comma := not_mem_toDigits hb n fun _ => Nat.digitChar_ne ',' rfl

/-- A number has no minus sign. -/
theorem minus_not_mem_toDigits {b : Nat} (hb : 1 < b) (n : Nat) : '-' ∉ Nat.toDigits b n :=
  not_mem_toDigits hb n fun _ => Nat.digitChar_ne '-' rfl

/-- The digits of a number, having no `x`, are read in decimal. -/
theorem naturalValue_toDigits (n : Nat) : naturalValue (Nat.toDigits 10 n) = some n := by
  have hx : 'x' ∉ Nat.toDigits 10 n := not_mem_toDigits (by decide) n fun _ => Nat.digitChar_ne 'x' rfl
  rw [naturalValue]
  · exact digitsValue_toDigits (by decide) (by decide) n
  · exact Nat.toDigits_ne_nil
  · intro h
    simp [h] at hx
  · intro ds h
    simp [h] at hx

/-- After `0x` the digits are hexadecimal. -/
theorem naturalValue_hex_toDigits (n : Nat) : naturalValue ('0' :: 'x' :: Nat.toDigits 16 n) = some n := by
  rw [naturalValue]
  · exact digitsValue_toDigits (by decide) (by decide) n
  · exact Nat.toDigits_ne_nil

/-- Without a minus sign an operand is its natural number. -/
theorem operandValue_of_not_minus {cs : List Char} {n : Nat} (hminus : '-' ∉ cs)
    (hv : naturalValue cs = some n) : operandValue cs = some (n : Int) := by
  rw [operandValue, hv]
  · rfl
  · rintro ds rfl
    simp at hminus

/-! ### The lines of the statement -/

/-- A FEED line with a number for a byte, however the number is written. -/
theorem assembleTextLine_feed {operand : List Char} (d : Byte) (hpart : IsPart operand)
    (hminus : '-' ∉ operand) (hv : naturalValue operand = some d.toNat) :
    assembleTextLine (['F', 'E', 'E', 'D', ' '] ++ operand) = .words [encode (.feed d)] := by
  have hline := assembleTextLine_operand (name := ['F', 'E', 'E', 'D']) rfl hpart
    (operandValue_of_not_minus hminus hv)
  rw [assembleLine_feed, assembleFeed_toNat] at hline
  exact hline

/-- FEED with its byte in decimal. -/
theorem assembleTextLine_feed_decimal (d : Byte) :
    assembleTextLine (['F', 'E', 'E', 'D', ' '] ++ Nat.toDigits 10 d.toNat) = .words [encode (.feed d)] :=
  assembleTextLine_feed d (isPart_toDigits (by decide) _) (minus_not_mem_toDigits (by decide) _)
    (naturalValue_toDigits _)

/-- FEED with its byte in hexadecimal. -/
theorem assembleTextLine_feed_hex (d : Byte) :
    assembleTextLine (['F', 'E', 'E', 'D', ' ', '0', 'x'] ++ Nat.toDigits 16 d.toNat) =
      .words [encode (.feed d)] := by
  have hdigits : IsPart (Nat.toDigits 16 d.toNat) := isPart_toDigits (by decide) _
  have hminus : '-' ∉ Nat.toDigits 16 d.toNat := minus_not_mem_toDigits (by decide) _
  apply assembleTextLine_feed (operand := '0' :: 'x' :: Nat.toDigits 16 d.toNat) d
  · exact (hdigits.cons (by decide) (by decide) (by decide)).cons (by decide) (by decide) (by decide)
  · simp [hminus]
  · exact naturalValue_hex_toDigits d.toNat

/-- `.word 0x0301`, the raw word of 95_test_vectors.md program P3. -/
theorem assembleTextLine_word_0x0301 :
    assembleTextLine ['.', 'w', 'o', 'r', 'd', ' ', '0', 'x', '0', '3', '0', '1'] = .words [0x0301#16] := by
  have hv : operandValue ['0', 'x', '0', '3', '0', '1'] = some ((0x0301#16 : Word).toNat : Int) := rfl
  have hline := assembleTextLine_operand (name := ['.', 'w', 'o', 'r', 'd']) rfl
    ⟨by simp, by simp [isBlank], by simp, by simp⟩ hv
  rw [assembleLine_word, assembleRaw_toNat] at hline
  exact hline

/-- A comment has no effect on its line. -/
theorem assembleTextLine_comment {line : List Char} (comment : List Char) (h : ';' ∉ line) :
    assembleTextLine (line ++ ';' :: comment) = assembleTextLine line := by
  rw [assembleTextLine, stripComment_append comment h, assembleTextLine]

/-- The first line of a text, and the rest of it. -/
theorem assembleText_append {line : List Char} (rest : List Char) (h : '\n' ∉ line) :
    assembleText (line ++ '\n' :: rest) = (assembleTextLine line).append (assembleText rest) := by
  rw [assembleText, pieces_append rest h, List.map_cons, joinAssembled, assembleText]

/-- Settles O50: the lines with numbers, then the text: a name is one part of its line, a number reads back from its
digits, and `clear` is none of the six names. -/
theorem assemblerEncodesLines : Obligations.AssemblerEncodesLines := by
  unfold Obligations.AssemblerEncodesLines
  exact ⟨rfl, rfl, rfl,
    fun d => encode_feed d ▸ assembleFeed_toNat d,
    assembleRaw_toNat,
    fun _ => assembleFeed_of_outside,
    fun _ => assembleLine_operand_refused,
    fun _ => assembleTextLine_comment,
    fun _ => assembleText_append,
    assembleTextLine_name (m := .clear) rfl,
    assembleTextLine_name (m := .read) rfl,
    assembleTextLine_name (m := .readraw) rfl,
    rfl,
    assembleTextLine_word_0x0301,
    fun d => ⟨assembleTextLine_feed_decimal d, assembleTextLine_feed_hex d⟩⟩

end Sys2Proof.Machine
end

section
/-! PROOFS. The datapath (40_datapath.md): the bit step as one XOR, its linearity and the inert bit 7, the order in which
a byte feeds its bits, the stuffer, and a message as a fold over its bytes. -/

namespace Sys2Proof.Machine

/-! ### The bit step -/

/-- The shift with zero fill appends a 0 to the low seven bits (spec R34). -/
theorem shiftLeft_one_eq_append (c : Byte) : c <<< 1 = c.extractLsb' 0 7 ++ 0#1 :=
  BitVec.shiftLeft_eq_concat_of_lt (by decide)

/-- The shift moves every bit up one place. -/
theorem getLsbD_shiftLeft_one_succ (c : Byte) {i : Nat} (hi : i < 7) : (c <<< 1).getLsbD (i + 1) = c.getLsbD i := by
  have hi8 : i + 1 < 8 := by omega
  rw [BitVec.getLsbD_shiftLeft]
  simp [hi8]

/-- Bit 7 of the shifted register is bit 6 of the register (spec R34). -/
theorem getLsbD_shiftLeft_one_seven (c : Byte) : (c <<< 1).getLsbD 7 = c.getLsbD 6 :=
  getLsbD_shiftLeft_one_succ c (by decide)

/-- The tap when the feedback bit is set, and nothing when it is not. -/
def tapIf (feedback : Bool) : Byte := if feedback then tap else 0x00#8

/-- The bit step as one XOR of the shifted register: the feedback bit is the input bit against bit 6 (spec R35). -/
theorem bitStep_eq_xor (c : Byte) (b : Bool) : bitStep c b = (c <<< 1) ^^^ tapIf (b ^^ c.getLsbD 6) := by
  rw [bitStep, getLsbD_shiftLeft_one_seven, tapIf]
  split_ifs
  · rfl
  · exact BitVec.xor_zero.symm

/-- The tap leaves bit 7 alone, so it is the bit just shifted out (spec R35). -/
theorem getLsbD_bitStep_seven (c : Byte) (b : Bool) : (bitStep c b).getLsbD 7 = c.getLsbD 6 := by
  have htap : ∀ feedback, (tapIf feedback).getLsbD 7 = false := by decide
  rw [bitStep_eq_xor, BitVec.getLsbD_xor, getLsbD_shiftLeft_one_seven, htap, Bool.xor_false]

/-- Settles O7: the spec's shifted register is the model's. -/
theorem bitStepShiftsAndTaps : Obligations.BitStepShiftsAndTaps := by
  unfold Obligations.BitStepShiftsAndTaps
  refine ⟨fun c b shifted h => ?_, rfl, rfl⟩
  obtain rfl : shifted = c <<< 1 := h.trans (shiftLeft_one_eq_append c).symm
  exact ⟨getLsbD_shiftLeft_one_seven c, rfl, getLsbD_bitStep_seven c b⟩

/-- The low seven bits of the shifted register. -/
theorem extractLsb'_shiftLeft_one (c : Byte) : (c <<< 1).extractLsb' 0 7 = c.extractLsb' 0 6 ++ 0#1 := by
  have hlow : (c.setWidth 7).extractLsb' 0 6 = c.extractLsb' 0 6 := BitVec.extractLsb'_setWidth_of_le (by decide)
  rw [← BitVec.setWidth_eq_extractLsb' (by decide), BitVec.setWidth_shiftLeft_of_le (by decide),
    BitVec.shiftLeft_eq_concat_of_lt (by decide), ← hlow]
  rfl

/-- The low seven bits of the tap. -/
theorem extractLsb'_tapIf (feedback : Bool) :
    (tapIf feedback).extractLsb' 0 7 = if feedback then 0b0001001#7 else 0b0000000#7 := by
  cases feedback <;> rfl

/-- Settles O8: the low seven bits of each side of the XOR. -/
theorem bitStepIsASevenBitRegister : Obligations.BitStepIsASevenBitRegister := by
  unfold Obligations.BitStepIsASevenBitRegister
  refine fun c b => ⟨?_, getLsbD_bitStep_seven c b⟩
  rw [bitStep_eq_xor, BitVec.extractLsb'_xor, extractLsb'_shiftLeft_one, extractLsb'_tapIf]

/-! ### Linearity (spec R45) -/

/-- The tap is linear in the feedback bit. -/
theorem tapIf_xor (b1 b2 : Bool) : tapIf (b1 ^^ b2) = tapIf b1 ^^^ tapIf b2 := by
  cases b1 <;> cases b2 <;> rfl

/-- The bit step is linear over GF(2), because the shift, the feedback bit and the tap are. -/
theorem bitStep_xor (c1 c2 : Byte) (b1 b2 : Bool) :
    bitStep (c1 ^^^ c2) (b1 ^^ b2) = bitStep c1 b1 ^^^ bitStep c2 b2 := by
  have hfeedback : ((b1 ^^ b2) ^^ (c1 ^^^ c2).getLsbD 6) = ((b1 ^^ c1.getLsbD 6) ^^ (b2 ^^ c2.getLsbD 6)) := by
    rw [BitVec.getLsbD_xor, Bool.xor_assoc, Bool.xor_assoc, Bool.xor_left_comm b2]
  simp only [bitStep_eq_xor, hfeedback, tapIf_xor, BitVec.shiftLeft_xor_distrib]
  ac_rfl

/-- A message of bits is linear over GF(2), bit by bit. -/
theorem feedBits_xor {m1 m2 : List Bool} (c1 c2 : Byte) (h : m1.length = m2.length) :
    feedBits (c1 ^^^ c2) (List.zipWith xor m1 m2) = feedBits c1 m1 ^^^ feedBits c2 m2 := by
  induction m1 generalizing m2 c1 c2 with
  | nil =>
    obtain rfl : m2 = [] := List.length_eq_zero_iff.1 h.symm
    rfl
  | cons b1 m1 ih =>
    cases m2 with
    | nil => exact absurd h (Nat.succ_ne_zero _)
    | cons b2 m2 =>
      rw [List.zipWith_cons_cons, feedBits_cons, feedBits_cons, feedBits_cons, bitStep_xor]
      exact ih _ _ (Nat.succ.inj h)

/-- Settles O17: the bit step is linear, and so is every message of bits. -/
theorem datapathIsLinear : Obligations.DatapathIsLinear := by
  unfold Obligations.DatapathIsLinear
  exact ⟨bitStep_xor, fun _ _ => feedBits_xor⟩

/-! ### Register bit 7 (spec R36) -/

/-- The shift discards bit 7. -/
theorem shiftLeft_one_and_0x7F (c : Byte) : (c &&& 0x7F#8) <<< 1 = c <<< 1 := by
  have hmask : (0x7F#8 : Byte) <<< 1 = BitVec.allOnes 7 ++ 0#1 := rfl
  rw [BitVec.shiftLeft_and_distrib, hmask, shiftLeft_one_eq_append, BitVec.and_append, BitVec.and_allOnes,
    BitVec.and_zero]

/-- The bit step reads the register through its shift only. -/
theorem bitStep_and_0x7F (c : Byte) (b : Bool) : bitStep (c &&& 0x7F#8) b = bitStep c b := by
  rw [bitStep, shiftLeft_one_and_0x7F, bitStep]

/-- The stuffer reads the register through its shift only. -/
theorem stuff_and_0x7F (c : Byte) : stuff (c &&& 0x7F#8) = stuff c := by
  rw [stuff, shiftLeft_one_and_0x7F, stuff]

/-- From registers alike in their low seven bits a byte gives one register: its first bit step discards bit 7. -/
theorem byteStep_eq_of_low_bits_eq {c c' : Byte} (h : c &&& 0x7F#8 = c' &&& 0x7F#8) (d : Byte) :
    byteStep c d = byteStep c' d := by
  have hfirst : bitStep c (d.getLsbD 7) = bitStep c' (d.getLsbD 7) := by
    rw [← bitStep_and_0x7F c, h, bitStep_and_0x7F]
  have hcons : inputBits d = d.getLsbD 7 :: (inputBits d).tail := rfl
  rw [byteStep, byteStep, hcons, feedBits_cons, feedBits_cons, hfirst]

/-- Registers alike in their low seven bits answer every word but READRAW alike, and stay alike. -/
theorem transact_of_low_bits_eq {c c' : Byte} (h : c &&& 0x7F#8 = c' &&& 0x7F#8) {w : Word}
    (hw : decode w ≠ .legal .readraw) :
    (transact c w).2 = (transact c' w).2 ∧ (transact c w).1 &&& 0x7F#8 = (transact c' w).1 &&& 0x7F#8 := by
  unfold transact
  cases hd : decode w with
  | illegal => exact ⟨rfl, h⟩
  | legal i =>
    cases i with
    | clear => exact ⟨rfl, rfl⟩
    | feed d => exact ⟨rfl, congrArg (· &&& 0x7F#8) (byteStep_eq_of_low_bits_eq h d)⟩
    | read =>
      have hstuff : stuff c = stuff c' := by rw [← stuff_and_0x7F c, h, stuff_and_0x7F]
      exact ⟨congrArg (Response.mk · false) hstuff, h⟩
    | readraw => exact absurd hd hw

/-- Bit 7 reaches no response of a run of words without READRAW. -/
theorem runExec_responses_of_low_bits_eq {ws : List Word} (hws : ∀ w ∈ ws, decode w ≠ .legal .readraw) {c c' : Byte}
    (h : c &&& 0x7F#8 = c' &&& 0x7F#8) : (runExec c ws).2 = (runExec c' ws).2 := by
  induction ws generalizing c c' with
  | nil => rfl
  | cons w ws ih =>
    obtain ⟨hw, hrest⟩ := List.forall_mem_cons.1 hws
    obtain ⟨hresponse, hcrc⟩ := transact_of_low_bits_eq h hw
    rw [runExec, runExec, hresponse, ih hrest hcrc]

/-- Settles O9: the bit step and the stuffer discard bit 7, so no run of words without READRAW shows it. -/
theorem registerBitSevenIsInert : Obligations.RegisterBitSevenIsInert := by
  unfold Obligations.RegisterBitSevenIsInert
  exact ⟨fun c b => (bitStep_and_0x7F c b).symm, fun c => (stuff_and_0x7F c).symm,
    fun _ _ _ h hws => runExec_responses_of_low_bits_eq hws h⟩

/-! ### Wide storage (spec R37) -/

/-- The byte-boundary mask is the identity on an 8-bit register. -/
theorem and_0xFF (c : Byte) : c &&& 0xFF#8 = c := BitVec.and_allOnes

/-- A wide bit step moves nothing from above bit 7 into the low byte. -/
theorem setWidth_wideBitStep {n : Nat} (hn : 8 ≤ n) (wide : BitVec n) (b : Bool) :
    (wideBitStep wide b).setWidth 8 = bitStep (wide.setWidth 8) b := by
  have hshift : (wide <<< 1).setWidth 8 = wide.setWidth 8 <<< 1 := BitVec.setWidth_shiftLeft_of_le hn
  have hseven : (wide <<< 1).getLsbD 7 = (wide.setWidth 8 <<< 1).getLsbD 7 := by
    rw [← hshift, BitVec.getLsbD_setWidth]
    rfl
  rw [wideBitStep, bitStep, hseven]
  split_ifs
  · rw [BitVec.setWidth_xor, hshift, BitVec.setWidth_ofNat_of_le hn]
    rfl
  · exact hshift

/-- Taking the low byte commutes with a list of bit steps. -/
theorem setWidth_foldl_wideBitStep {n : Nat} (hn : 8 ≤ n) (wide : BitVec n) (bits : List Bool) :
    (bits.foldl wideBitStep wide).setWidth 8 = feedBits (wide.setWidth 8) bits :=
  (List.foldl_hom (BitVec.setWidth 8) fun x b => (setWidth_wideBitStep hn x b).symm).symm

/-- Taking the low byte commutes with a byte step, whose mask keeps the low byte. -/
theorem setWidth_wideByteStep {n : Nat} (hn : 8 ≤ n) (wide : BitVec n) (d : Byte) :
    (wideByteStep wide d).setWidth 8 = byteStep (wide.setWidth 8) d := by
  rw [wideByteStep, setWidth_foldl_wideBitStep hn, BitVec.setWidth_and, BitVec.setWidth_ofNat_of_le hn, and_0xFF,
    byteStep]

/-- Settles O10: taking the low byte commutes with each bit step and with each byte step, so with every fold. -/
theorem wideStorageKeepsTheLowByte : Obligations.WideStorageKeepsTheLowByte := by
  unfold Obligations.WideStorageKeepsTheLowByte
  exact ⟨and_0xFF, fun _ => setWidth_foldl_wideBitStep,
    fun _ hn _ _ => (List.foldl_hom (BitVec.setWidth 8) fun x d => (setWidth_wideByteStep hn x d).symm).symm⟩

/-! ### The bits of a byte (spec R38, R39) -/

/-- Settles O11: the input bits are written out by evaluation, and the mask is the identity. -/
theorem byteStepFeedsMostSignificantFirst : Obligations.ByteStepFeedsMostSignificantFirst := by
  unfold Obligations.ByteStepFeedsMostSignificantFirst
  refine ⟨fun c d => ?_, by decide, by decide, by decide, by decide⟩
  rw [and_0xFF]
  rfl

/-- The shift of the reference's copy of a byte, whatever fills its bit 0. -/
def shiftFilling (x : Byte) (fill : Bool) : Byte := (x <<< 1) ||| (if fill then 1#8 else 0#8)

/-- A fill reaches bit 0 only. -/
theorem getLsbD_shiftFilling_succ (x : Byte) (fill : Bool) {i : Nat} (hi : i < 7) :
    (shiftFilling x fill).getLsbD (i + 1) = x.getLsbD i := by
  have hfill : (if fill then 1#8 else 0#8 : Byte).getLsbD (i + 1) = false := by
    cases fill <;> simp
  rw [shiftFilling, BitVec.getLsbD_or, hfill, getLsbD_shiftLeft_one_succ x hi, Bool.or_false]

/-- A bit of the byte moves up one place at every shift. -/
theorem getLsbD_foldl_shiftFilling (fills : List Bool) (x : Byte) {i : Nat} (hi : i + fills.length < 8) :
    (fills.foldl shiftFilling x).getLsbD (i + fills.length) = x.getLsbD i := by
  induction fills generalizing x i with
  | nil => rfl
  | cons fill fills ih =>
    rw [List.length_cons] at hi
    rw [List.length_cons, List.foldl_cons, Nat.add_comm fills.length 1, ← Nat.add_assoc, ih _ (by omega),
      getLsbD_shiftFilling_succ x fill (by omega)]

/-- Settles O12: `d[7-k]` reaches bit 7 in `k` shifts, past every fill. -/
theorem shiftedCopyFeedsTheIndexedBits : Obligations.ShiftedCopyFeedsTheIndexedBits := by
  unfold Obligations.ShiftedCopyFeedsTheIndexedBits
  refine ⟨fun d fills h => ?_, fun d k hk => ⟨topBit_shiftByte_iterate hk d, ?_⟩⟩
  · have hseven : 7 - fills.length + fills.length = 7 := by omega
    have hbit := getLsbD_foldl_shiftFilling fills d (i := 7 - fills.length) (by omega)
    rw [hseven] at hbit
    exact hbit
  · rw [inputBits, List.getElem?_map, List.getElem?_range hk]
    rfl

/-! ### The stuffer (spec R40, R41) -/

/-- The stop bit stands below the low seven bits of the register. -/
theorem stuff_eq_append (c : Byte) : stuff c = c.extractLsb' 0 7 ++ 1#1 := by
  have hone : (1#8 : Byte) = 0#7 ++ 1#1 := rfl
  rw [stuff, shiftLeft_one_eq_append, hone, BitVec.or_append, BitVec.or_zero, BitVec.zero_or]

/-- The stop bit. -/
theorem stuff_and_one (c : Byte) : stuff c &&& 1#8 = 1#8 := by
  have hone : (1#8 : Byte) = 0#7 ++ 1#1 := rfl
  rw [stuff_eq_append, hone, BitVec.and_append, BitVec.and_zero, BitVec.and_self]

/-- Settles O13: a shift with the stop bit in the place of the filled 0; a message's result is stuffed. -/
theorem stufferAppendsTheStopBit : Obligations.StufferAppendsTheStopBit := by
  unfold Obligations.StufferAppendsTheStopBit
  exact ⟨fun c => ⟨(and_0xFF _).symm, stuff_eq_append c⟩, stuff_and_one, fun _ => stuff_and_one _,
    rfl, rfl, rfl, rfl, rfl⟩

/-! ### A message as a fold (spec R43, R44) -/

/-- The register carries over from the first part of a message to the rest. -/
theorem feedBytes_append (c : Byte) (a b : List Byte) : feedBytes c (a ++ b) = feedBytes (feedBytes c a) b :=
  List.foldl_append

/-- Settles O15: the fold over an appended message, and the two orders evaluated. -/
theorem registerCarriesOverBetweenBytes : Obligations.RegisterCarriesOverBetweenBytes := by
  unfold Obligations.RegisterCarriesOverBetweenBytes
  exact ⟨feedBytes_append, fun _ _ _ => rfl, by decide +kernel, by decide +kernel⟩

/-- Zero bytes leave the register at 0x00. -/
theorem feedBytes_zero_bytes (n : Nat) : feedBytes 0x00#8 (List.replicate n 0x00#8) = 0x00#8 := by
  have hzero : byteStep 0x00#8 0x00#8 = 0x00#8 := by decide
  induction n with
  | zero => rfl
  | succ n ih =>
    rw [List.replicate_succ, feedBytes, List.foldl_cons, hzero]
    exact ih

/-- Zero bytes at the start of a message leave its result. -/
theorem crc7_zero_bytes_append (n : Nat) (bytes : List Byte) :
    crc7 (List.replicate n 0x00#8 ++ bytes) = crc7 bytes := by
  rw [crc7, initialCrc, feedBytes_append, feedBytes_zero_bytes, crc7, initialCrc]

/-- Settles O14: zero bytes leave the register at its initial value, from which the rest of the message goes on. -/
theorem zeroBytesLeaveTheInitialRegister : Obligations.ZeroBytesLeaveTheInitialRegister := by
  unfold Obligations.ZeroBytesLeaveTheInitialRegister
  have hempty : crc7 [] = 0x01#8 := rfl
  have hzeros : ∀ n : Nat, crc7 (List.replicate n 0x00#8) = 0x01#8 := fun n => by
    rw [← List.append_nil (List.replicate n _), crc7_zero_bytes_append, hempty]
  exact ⟨hempty, hzeros 1, hzeros, crc7_zero_bytes_append⟩

end Sys2Proof.Machine
end

section
/-! PROOFS. The register as a polynomial over GF(2) (spec R45): one bit step is one step of long division by
x^7 + x^3 + 1, so after a message the register holds the remainder. -/

namespace Sys2Proof.Machine

open Polynomial

/-- A bit as a coefficient. -/
noncomputable def bitPoly (b : Bool) : (ZMod 2)[X] := if b then 1 else 0

theorem ite_eq_bitPoly_mul (b : Bool) (p : (ZMod 2)[X]) : (if b then p else 0) = bitPoly b * p := by
  cases b <;> simp [bitPoly]

/-- XOR of bits is addition over GF(2). -/
theorem bitPoly_xor (a b : Bool) : bitPoly (a ^^ b) = bitPoly a + bitPoly b := by
  cases a <;> cases b <;> simp [bitPoly, CharTwo.add_self_eq_zero]

/-- Bits 6..0 of the register as a polynomial, the x^6 coefficient in bit 6. -/
noncomputable def registerPoly (c : Byte) : (ZMod 2)[X] :=
  ∑ i ∈ Finset.range 7, if c.getLsbD i then X ^ i else 0

/-- The message's bits as a polynomial, the bit fed last in the constant term: M(x). -/
noncomputable def messagePoly (message : List Bool) : (ZMod 2)[X] :=
  ∑ i ∈ Finset.range message.length, if message.getD i false then X ^ (message.length - 1 - i) else 0

/-- G(x). -/
noncomputable def generatorPoly : (ZMod 2)[X] := X ^ 7 + X ^ 3 + 1

/-! ### The register -/

theorem registerPoly_eq (c : Byte) :
    registerPoly c = ∑ i ∈ Finset.range 7, bitPoly (c.getLsbD i) * X ^ i :=
  Finset.sum_congr rfl fun _ _ => ite_eq_bitPoly_mul _ _

theorem registerPoly_xor (c1 c2 : Byte) : registerPoly (c1 ^^^ c2) = registerPoly c1 + registerPoly c2 := by
  simp only [registerPoly_eq, BitVec.getLsbD_xor, bitPoly_xor, add_mul, Finset.sum_add_distrib]

/-- The shift multiplies by x, and bit 6 leaves the seven bits as x^7. -/
theorem registerPoly_shiftLeft_one (c : Byte) :
    registerPoly (c <<< 1) = X * registerPoly c - bitPoly (c.getLsbD 6) * X ^ 7 := by
  have hzero : bitPoly ((c <<< 1).getLsbD 0) = 0 := by simp [bitPoly]
  have hsucc : ∀ i ∈ Finset.range 6, bitPoly ((c <<< 1).getLsbD (i + 1)) * X ^ (i + 1) =
      X * (bitPoly (c.getLsbD i) * X ^ i) := fun i hi => by
    rw [getLsbD_shiftLeft_one_succ c (Nat.lt_succ_of_lt (Finset.mem_range.1 hi))]
    ring
  rw [registerPoly_eq, Finset.sum_range_succ', hzero, Finset.sum_congr rfl hsucc, registerPoly_eq,
    Finset.sum_range_succ _ 6, ← Finset.mul_sum]
  ring

/-- The tap is G(x) without its leading term. -/
theorem registerPoly_tapIf (feedback : Bool) : registerPoly (tapIf feedback) = bitPoly feedback * (X ^ 3 + 1) := by
  cases feedback <;> simp [registerPoly, tapIf, tap, bitPoly, Finset.sum_range_succ, add_comm]

/-- One step of long division: shift in the input bit at x^7, and subtract G(x) when x^7 is then there. -/
theorem registerPoly_bitStep (c : Byte) (b : Bool) :
    registerPoly (bitStep c b) =
      X * registerPoly c + bitPoly b * X ^ 7 - bitPoly (b ^^ c.getLsbD 6) * generatorPoly := by
  have htwo : (2 : (ZMod 2)[X]) = 0 := CharTwo.two_eq_zero
  rw [bitStep_eq_xor, registerPoly_xor, registerPoly_shiftLeft_one, registerPoly_tapIf, bitPoly_xor, generatorPoly]
  linear_combination (bitPoly b + bitPoly (c.getLsbD 6)) * (X ^ 3 + 1) * htwo

/-- The register's polynomial is of lower degree than G(x). -/
theorem degree_registerPoly_lt (c : Byte) : (registerPoly c).degree < 7 := by
  refine mem_degreeLT.1 (Submodule.sum_mem (degreeLT (ZMod 2) 7) fun i hi => ?_)
  split_ifs
  · exact mem_degreeLT.2 ((degree_X_pow_le i).trans_lt (Nat.cast_lt.2 (Finset.mem_range.1 hi)))
  · exact Submodule.zero_mem _

/-! ### The message -/

theorem feedBits_concat (c : Byte) (message : List Bool) (b : Bool) :
    feedBits c (message ++ [b]) = bitStep (feedBits c message) b := List.foldl_concat ..

/-- One more bit multiplies by x and is the new constant term. -/
theorem messagePoly_concat (message : List Bool) (b : Bool) :
    messagePoly (message ++ [b]) = X * messagePoly message + bitPoly b := by
  have hearlier : ∀ i ∈ Finset.range message.length,
      (if (message ++ [b]).getD i false then X ^ (message.length - i) else 0 : (ZMod 2)[X]) =
        X * if message.getD i false then X ^ (message.length - 1 - i) else 0 := fun i hi => by
    have hi' := Finset.mem_range.1 hi
    have hexp : message.length - i = message.length - 1 - i + 1 := by omega
    rw [List.getD_append _ _ _ _ hi', hexp, mul_ite, mul_zero, pow_succ']
  have hlast : (message ++ [b]).getD message.length false = b := by simp
  rw [messagePoly, List.length_append, List.length_singleton, Finset.sum_range_succ, hlast, Nat.add_sub_cancel,
    Nat.sub_self, pow_zero, Finset.sum_congr rfl hearlier, ← Finset.mul_sum]
  rfl

/-- The register and M(x) · x^7 are alike modulo G(x). -/
theorem generatorPoly_dvd_messagePoly_sub_registerPoly (message : List Bool) :
    generatorPoly ∣ messagePoly message * X ^ 7 - registerPoly (feedBits 0x00#8 message) := by
  induction message using List.reverseRecOn with
  | nil => simp [messagePoly, registerPoly]
  | append_singleton message b ih =>
    obtain ⟨q, hq⟩ := ih
    rw [messagePoly_concat, feedBits_concat, registerPoly_bitStep]
    exact ⟨X * q + bitPoly (b ^^ (feedBits 0x00#8 message).getLsbD 6), by linear_combination X * hq⟩

theorem degree_generatorPoly : generatorPoly.degree = 7 := by
  rw [generatorPoly]
  compute_degree!

theorem generatorPoly_monic : generatorPoly.Monic := by
  rw [generatorPoly]
  monicity!

/-- Settles O18: the register differs from M(x) · x^7 by a multiple of G(x) and is of lower degree, so it is the
remainder. -/
theorem registerIsThePolynomialRemainder : Obligations.RegisterIsThePolynomialRemainder := by
  unfold Obligations.RegisterIsThePolynomialRemainder
  intro message
  have hlt : (registerPoly (feedBits 0x00#8 message)).degree < generatorPoly.degree :=
    degree_generatorPoly ▸ degree_registerPoly_lt _
  calc registerPoly (feedBits 0x00#8 message)
      = registerPoly (feedBits 0x00#8 message) %ₘ generatorPoly :=
        ((modByMonic_eq_self_iff generatorPoly_monic).2 hlt).symm
    _ = (messagePoly message * X ^ 7) %ₘ generatorPoly :=
        (modByMonic_eq_of_dvd_sub generatorPoly_monic
          (generatorPoly_dvd_messagePoly_sub_registerPoly message)).symm

end Sys2Proof.Machine
end

section
/-! PROOFS. One invocation (spec R42, R52): the words of a message compute its `crc7`, after a CLEAR or after a reset. -/

namespace Sys2Proof.Machine

/-- FEEDs and a READ sent to a ready block answer the stuffed fold of the bytes from its register. -/
theorem sendWords_feeds_read (bytes : List Byte) {s : State} (h : s.busy = false) :
    ∃ t, sendWords (bytes.map (fun b => encode (.feed b)) ++ [encode .read]) s = .next t ∧
      t.rspData = stuff (feedBytes s.crc bytes) ∧ t.rspErr = false ∧ t.crc = feedBytes s.crc bytes ∧
      t.busy = false := by
  obtain ⟨t, hsend, hcrc, hbusy⟩ := sendWords_feeds bytes [encode .read] h
  refine ⟨respond (stuff t.crc) false t, ?_, ?_, rfl, hcrc, hbusy⟩
  · simp only [hsend, sendWords, sendWord_read hbusy]
  · rw [respond_rspData, hcrc]

/-- A message sent to a block in any state, with the block it leaves: its CLEAR waits for the FEED in progress and
starts from 0x00. -/
theorem sendWords_message (bytes : List Byte) (s : State) :
    ∃ t, sendWords (messageWords bytes) s = .next t ∧ t.rspData = crc7 bytes ∧ t.rspErr = false ∧
      t.crc = feedBytes 0x00#8 bytes ∧ t.busy = false := by
  have hready : (respond 0x00#8 false (clearCrc (waitReady (encode .clear) s))).busy = false :=
    waitReady_busy (encode .clear) s
  obtain ⟨t, hsend, hanswer⟩ := sendWords_feeds_read bytes hready
  refine ⟨t, ?_, hanswer⟩
  rw [messageWords, sendWords, sendWord_clear]
  exact hsend

/-- A message sent without its CLEAR to a block just reset. -/
theorem sendWords_message_after_reset (bytes : List Byte) (s : State) {p : Pins} (hp : p.rst = true) :
    ∃ t, sendWords (messageWords bytes).tail (edge p s) = .next t ∧ t.rspData = crc7 bytes ∧ t.rspErr = false := by
  rw [edge_of_rst p s hp]
  obtain ⟨t, hsend, hdata, herr, -, -⟩ := sendWords_feeds_read bytes (resetRegisters_busy s)
  exact ⟨t, hsend, hdata, herr⟩

/-- Settles O48: a message starts from 0x00 after its CLEAR or a reset, and FEEDs alone from the register. -/
theorem messageCommandsComputeCrc7 : Obligations.MessageCommandsComputeCrc7 := by
  unfold Obligations.MessageCommandsComputeCrc7
  refine ⟨fun _ => rfl, sendWords_message, fun bytes s _ => sendWords_message_after_reset bytes s,
    fun bytes s h => ?_⟩
  obtain ⟨t, hsend, hcrc, -⟩ := sendWords_feeds bytes [] h
  rw [List.append_nil] at hsend
  exact ⟨t, hsend, hcrc⟩

end Sys2Proof.Machine
end

section
/-! PROOFS. The four commands, each whole (spec R47 to R51): its transaction with its frame, its word, and the clock
edges of a FEED. -/

namespace Sys2Proof.Machine

/-! ### The transaction of a word -/

/-- A word that decodes to a command runs that command (spec R47). -/
theorem execWord_of_legal {w : Word} {i : Instr} (s : State) (h : decode w = .legal i) : execWord w s = exec i s := by
  rw [execWord, h]

/-- The command's own word, put at the head of the host's list, is what a ready block runs next. -/
theorem step_withFetchWord_encode (i : Instr) {s : State} (hb : s.busy = false) :
    step (s.withFetchWord 16 (encode i).toNat) = exec i s := by
  rw [State.withFetchWord, tableWord_toNat]
  exact (sendWord_of_not_busy s _ hb).trans (execWord_of_legal s (decode_encode i))

/-- Settles O38: a command event waits and then runs its word, and a ready block does not wait. -/
theorem stepRunsTheDecodedCommand : Obligations.StepRunsTheDecodedCommand := by
  unfold Obligations.StepRunsTheDecodedCommand
  refine ⟨fun s w i rest hin hw => ?_, fun s i => step_withFetchWord_encode i, fun s p rest => step_of_edge s⟩
  have hstep : step s = exec i (waitReady w { s with inputs := rest }) :=
    (step_of_command s hin).trans (execWord_of_legal _ hw)
  refine ⟨hstep, fun hb => ?_⟩
  rw [hstep, waitReady_of_not_busy { s with inputs := rest } w hb]

/-- Settles O40: a ready block runs the word at once, and each decoding has its own register and response. -/
theorem execDispatchesOnTheWord : Obligations.ExecDispatchesOnTheWord := by
  unfold Obligations.ExecDispatchesOnTheWord
  intro s w hb
  refine ⟨afterWord w s, ?_, afterWord_rspValid w s, afterWord_busy w hb, afterWord_inputs w s, ?_⟩
  · rw [sendWord_of_not_busy s w hb, execWord_eq]
  · unfold afterWord
    cases decode w with
    | illegal => rfl
    | legal i => cases i <;> rfl

/-! ### CLEAR, READ and READRAW -/

/-- DATA on a command without an operand makes the word illegal (spec R26, R28). -/
theorem decode_append_of_data_ne_zero {op data : Byte} (hop : op = 0x01#8 ∨ op = 0x03#8 ∨ op = 0x04#8)
    (h : data ≠ 0x00#8) : decode (op ++ data) = .illegal :=
  (decode_append_eq_illegal_iff op data).2 (.inr ⟨hop, h⟩)

/-- Settles O41: CLEAR writes the initial value, which is also the reset value, and repeats itself. -/
theorem clearSetsTheInitialValue : Obligations.ClearSetsTheInitialValue := by
  unfold Obligations.ClearSetsTheInitialValue
  exact ⟨fun _ => rfl, rfl, fun _ => decode_append_of_data_ne_zero (.inl rfl), fun _ _ => execClear_idempotent,
    _, rfl, rfl⟩

/-- READ a second time answers from the same register. -/
theorem execRead_idempotent {s t : State} (h : exec .read s = .next t) : exec .read t = .next t := by
  obtain rfl : respond (stuff s.crc) false s = t := Host.Outcome.next.inj h
  rfl

/-- The result byte above its stop bit is the low seven bits of the register (spec R16, R40). -/
theorem extractLsb'_stuff (c : Byte) : (stuff c).extractLsb' 1 7 = c.extractLsb' 0 7 := by
  rw [stuff_eq_append]
  exact BitVec.extractLsb'_append_eq_left

/-- Bit 0 of the result byte is the stop bit (spec R16, R40). -/
theorem getLsbD_stuff_zero (c : Byte) : (stuff c).getLsbD 0 = true := by
  simp [stuff]

/-- Settles O43: READ only responds, so it repeats itself; the byte's layout is the stuffer's. -/
theorem readAnswersTheStuffedRegister : Obligations.ReadAnswersTheStuffedRegister := by
  unfold Obligations.ReadAnswersTheStuffedRegister
  exact ⟨fun _ => rfl, rfl, fun _ => decode_append_of_data_ne_zero (.inr (.inl rfl)), rfl, rfl,
    fun _ _ => execRead_idempotent, fun c => ⟨extractLsb'_stuff c, getLsbD_stuff_zero c, stuff_and_0x7F c⟩⟩

/-- Settles O44: READRAW answers the register itself; every other response reads the low seven bits at most. -/
theorem readrawAnswersTheRegister : Obligations.ReadrawAnswersTheRegister := by
  unfold Obligations.ReadrawAnswersTheRegister
  refine ⟨fun _ => rfl, rfl, fun _ => decode_append_of_data_ne_zero (.inr (.inr rfl)), by decide +kernel, rfl,
    by decide +kernel, fun w c c' hw h => ?_⟩
  obtain ⟨hresponse, -⟩ := transact_of_low_bits_eq h hw
  exact hresponse

/-! ### FEED and its clock edges -/

/-- Bit 7 of the register does not reach a byte step (spec R36). -/
theorem byteStep_and_0x7F (c d : Byte) : byteStep (c &&& 0x7F#8) d = byteStep c d :=
  byteStep_eq_of_low_bits_eq (by rw [BitVec.and_assoc, BitVec.and_self]) d

/-- After a byte, bit 7 holds the bit shifted out by the eighth bit step (spec R35, R49). -/
theorem getLsbD_byteStep_seven (c d : Byte) :
    (byteStep c d).getLsbD 7 = (feedBits c ((inputBits d).take 7)).getLsbD 6 := by
  have hlast : inputBits d = (inputBits d).take 7 ++ [inputBit d 7] := rfl
  rw [byteStep, hlast, feedBits_concat, getLsbD_bitStep_seven, ← hlast]

/-- A ready block offered a command's word takes that command's accept edge. -/
theorem edge_offer_encode (i : Instr) {s : State} (hb : s.busy = false) :
    edge (Pins.offer (encode i)) s = acceptEdge i s := by
  rw [edge_of_offer _ s rfl hb rfl]
  exact acceptWord_of_legal s (decode_encode i)

/-- Eight edges without reset after a FEED's accept edge complete it, whatever is offered meanwhile (spec R75). -/
theorem runEdges_eight_after_acceptFeed (d : Byte) (s : State) {qs : List Pins} (hqs : ∀ q ∈ qs, q.rst = false)
    (hlen : qs.length = 8) : runEdges qs (acceptEdge (.feed d) s) = respond 0x00#8 false (feedByte d s) := by
  have hleft : edgesLeft (acceptEdge (.feed d) s) = 8 := rfl
  rw [runEdges_rest_of_feed qs _ hqs rfl (hlen.trans hleft.symm), hlen, shiftByte_iterate_eight, fedBits_eight]
  rfl

/-- Settles O42: the transaction and the word by evaluation, the byte step by its last bit step, and the edges as the
whole of the FEED in progress that the accept edge starts. -/
theorem feedTakesOneByte : Obligations.FeedTakesOneByte := by
  unfold Obligations.FeedTakesOneByte
  refine ⟨fun _ _ => rfl, fun d => ⟨rfl, decode_encode (.feed d)⟩, by decide, by decide, by decide,
    fun c d => ⟨byteStep_and_0x7F c d, getLsbD_byteStep_seven c d⟩, fun d s qs hb hqs => ?_⟩
  rw [runEdges_cons, edge_offer_encode _ hb]
  refine ⟨fun hlen => ?_, fun hlen => ?_⟩
  · obtain ⟨hbusy, -⟩ := runEdges_within_feed qs (s := acceptEdge (.feed d) s) rfl hqs hlen
    exact hbusy
  · rw [runEdges_eight_after_acceptFeed d s hqs hlen]
    rfl

end Sys2Proof.Machine
end

section
/-! PROOFS. The host's entry point (spec R53, R59): every element is checked before the first command. -/

namespace Sys2Proof.Machine

/-- The source's element range. -/
theorem inByteRange_iff (v : Int) : inByteRange v = true ↔ 0 ≤ v ∧ v ≤ 255 := by
  simp [inByteRange]

/-- A list in range has no offending element. -/
theorem firstOutOfRange_of_inside {values : List Int} (h : ∀ x ∈ values, 0 ≤ x ∧ x ≤ 255) :
    firstOutOfRange values = none :=
  List.find?_eq_none.2 fun x hx => by simp [(inByteRange_iff x).2 (h x hx)]

/-- The offending element after elements in range is the first one, whatever follows it. -/
theorem firstOutOfRange_append_cons {before : List Int} {v : Int} (after : List Int)
    (hbefore : ∀ x ∈ before, 0 ≤ x ∧ x ≤ 255) (hv : v < 0 ∨ v > 255) :
    firstOutOfRange (before ++ v :: after) = some v := by
  have hnone : before.find? (fun x => !inByteRange x) = none := firstOutOfRange_of_inside hbefore
  rw [firstOutOfRange, List.find?_append, hnone, List.find?_cons_of_pos (by simp [inByteRange_of_outside hv]),
    Option.none_or]

/-- The host rejects the first offending element, with the block as it was (spec R59). -/
theorem hostCrc7_of_outside {before : List Int} {v : Int} (after : List Int) (s : State)
    (hbefore : ∀ x ∈ before, 0 ≤ x ∧ x ≤ 255) (hv : v < 0 ∨ v > 255) :
    hostPlan (before ++ v :: after) = .reject v ∧
      hostCrc7 (before ++ v :: after) s = .next (.validationError v s) := by
  have hplan : hostPlan (before ++ v :: after) = .reject v := by
    rw [hostPlan, firstOutOfRange_append_cons after hbefore hv]
  exact ⟨hplan, by rw [hostCrc7, hplan]⟩

/-- With every element in range the host sends the message, and its READ answers the `crc7` (spec R53). -/
theorem hostCrc7_of_inside {values : List Int} (s : State) (h : ∀ x ∈ values, 0 ≤ x ∧ x ≤ 255) :
    hostPlan values = .send (messageWords (values.map (BitVec.ofInt 8))) ∧
      ∃ t, hostCrc7 values s = .next (.result (crc7 (values.map (BitVec.ofInt 8))) t) := by
  have hplan : hostPlan values = .send (messageWords (values.map (BitVec.ofInt 8))) := by
    rw [hostPlan, firstOutOfRange_of_inside h]
  obtain ⟨t, hsend, hdata, -⟩ := sendWords_message (values.map (BitVec.ofInt 8)) s
  exact ⟨hplan, t, by simp only [hostCrc7, hplan, hsend, hdata]⟩

/-- Settles O49: the first offending element is rejected, 256 and -1 as the whole list among them, and without one the
message is sent. -/
theorem hostValidatesBeforeItSends : Obligations.HostValidatesBeforeItSends := by
  unfold Obligations.HostValidatesBeforeItSends
  refine ⟨fun _ after _ s => hostCrc7_of_outside after s, fun _ => hostCrc7_of_inside, fun s => ⟨?_, ?_⟩⟩
  · exact (hostCrc7_of_outside [] s (List.forall_mem_nil _) (.inr (by decide))).2
  · exact (hostCrc7_of_outside [] s (List.forall_mem_nil _) (.inl (by decide))).2

end Sys2Proof.Machine
end

section
/-! PROOFS. Exceptions and several blocks (60_exceptions.md): no step stops, no command raises an error, an illegal word
is answered and the block goes on (spec R58, R61, R64, R65), and blocks side by side share nothing (spec R69). -/

namespace Sys2Proof.Machine

/-! ### Every step has a next state (spec R61, R64) -/

/-- The next state of a step: after the edge, or after the transaction of the word once the block is ready. -/
def afterStep (s : State) : State :=
  match fetch s with
  | .clock p t => edge p t
  | .command w t => afterWord w (waitReady w t)

/-- A step always goes on, and this is its next state. -/
theorem step_eq (s : State) : step s = .next (afterStep s) := by
  unfold step afterStep
  cases fetch s with
  | clock p t => rfl
  | command w t => exact execWord_eq (waitReady w t) w

/-- Settles O39: the next state is `afterStep`. -/
theorem noStepStops : Obligations.NoStepStops :=
  fun s => ⟨afterStep s, step_eq s⟩

/-! ### The error bit (spec R58, R61, R65) -/

/-- Settles O46: each of the four commands ends in a response whose error bit is 0. -/
theorem commandsRaiseNoError : Obligations.CommandsRaiseNoError := by
  unfold Obligations.CommandsRaiseNoError
  intro i s
  cases i with
  | clear => exact ⟨respond 0x00#8 false (clearCrc s), rfl, rfl, rfl⟩
  | feed d => exact ⟨respond 0x00#8 false (feedByte d s), rfl, rfl, rfl⟩
  | read => exact ⟨respond (stuff s.crc) false s, rfl, rfl, rfl⟩
  | readraw => exact ⟨respond s.crc false s, rfl, rfl, rfl⟩

/-- A second illegal word finds nothing to change: the error response shows already. -/
theorem illegalCommand_idempotent (s : State) : illegalCommand (illegalCommand s) = illegalCommand s := rfl

/-- A command's own word, sent to a ready block, runs that command (spec R47). -/
theorem sendWord_encode (i : Instr) {s : State} (hb : s.busy = false) : sendWord (encode i) s = exec i s :=
  (sendWord_of_not_busy s _ hb).trans (execWord_of_legal s (decode_encode i))

/-- So it answers without an error, whatever the last response was. -/
theorem sendWord_encode_rspErr (i : Instr) {s : State} (hb : s.busy = false) :
    ∃ t, sendWord (encode i) s = .next t ∧ t.rspErr = false := by
  obtain ⟨t, hexec, -, herr⟩ := commandsRaiseNoError i s
  exact ⟨t, (sendWord_encode i hb).trans hexec, herr⟩

/-- Settles O45: the word is only answered, at both levels; the block is as ready as before, so it takes the next word,
illegal or not. -/
theorem illegalWordAnswersAnError : Obligations.IllegalWordAnswersAnError := by
  unfold Obligations.IllegalWordAnswersAnError
  intro w s hw hb t ht
  obtain rfl : t = illegalCommand s := ht
  have hready : (illegalCommand s).busy = false := hb
  refine ⟨sendWord_illegal hw hb, ?_, ?_, fun v hv => ?_, fun i => sendWord_encode_rspErr i hready⟩
  · exact (edge_of_offer _ s rfl hb rfl).trans (acceptWord_of_illegal s hw)
  · simp [cmdReady, hb]
  · rw [sendWord_illegal hv hready, illegalCommand_idempotent]

/-! ### Several blocks (spec R69) -/

/-- A step of the instance at place `k` modifies that place alone, by the block's own step; an empty place stays empty. -/
theorem stepInstance_eq_modify (k : Nat) (blocks : List State) :
    stepInstance k blocks = .next (blocks.modify k afterStep) := by
  rw [stepInstance, List.modify_eq_set_getElem?]
  cases blocks[k]? with
  | none => rfl
  | some b => simp [step_eq]

/-- Where there is a block, the step of the instance is that block's own step. -/
theorem stepInstance_of_block {blocks : List State} {k : Nat} {b t : State} (hb : blocks[k]? = some b)
    (ht : step b = .next t) : stepInstance k blocks = .next (blocks.set k t) := by
  simp only [stepInstance, hb, ht]

/-- Settles O52: a step modifies one place, and modifications of two places commute. -/
theorem instancesAreIndependent : Obligations.InstancesAreIndependent := by
  unfold Obligations.InstancesAreIndependent
  refine ⟨?_, ?_, fun blocks k b t => stepInstance_of_block⟩
  · simp only [stepInstance_eq_modify, Host.Outcome.next.injEq]
    rintro blocks _ k j rfl hne
    exact List.getElem?_modify_ne afterStep blocks hne.symm
  · simp only [stepInstance_eq_modify, Host.Outcome.next.injEq]
    rintro blocks _ _ _ _ k j hne rfl rfl rfl rfl
    exact List.modify_modify_ne afterStep afterStep blocks hne

end Sys2Proof.Machine
end

section
/-! PROOFS. Runs of clock edges: while a FEED is in progress every edge is its next bit step, whatever the pins say
(spec R74, R78), and what one reset edge or many leave of a run (spec R72). -/

namespace Sys2Proof.Machine

/-! ### The edges of a FEED in progress are bit steps -/

/-- Where edges are left, a FEED is in progress, and its next edge takes one of them. -/
theorem busy_of_edgesLeft {n : Nat} {s : State} (h : n + 1 ≤ edgesLeft s) :
    s.busy = true ∧ n ≤ edgesLeft (feedEdge s) := by
  cases hb : s.busy with
  | false => simp [edgesLeft_of_not_busy hb] at h
  | true =>
    rw [edgesLeft_feedEdge hb] at h
    exact ⟨rfl, Nat.le_of_succ_le_succ h⟩

/-- Over the edges left of a FEED the pins have no effect: each edge is the FEED's next one. -/
theorem runEdges_eq_iterate_feedEdge {ps : List Pins} {s : State} (hps : ∀ p ∈ ps, p.rst = false)
    (hlen : ps.length ≤ edgesLeft s) : runEdges ps s = feedEdge^[ps.length] s := by
  induction ps generalizing s with
  | nil => rfl
  | cons p ps ih =>
    obtain ⟨hp, hps⟩ := List.forall_mem_cons.1 hps
    obtain ⟨hb, hleft⟩ := busy_of_edgesLeft hlen
    rw [runEdges_cons, edge_of_busy p s hp hb, ih hps hleft, List.length_cons, Function.iterate_succ_apply]

/-- A busy block accepts nothing (spec R10). -/
theorem accepts_of_busy (p : Pins) {s : State} (hb : s.busy = true) : accepts p s = false := by
  simp [accepts, cmdReady, hb]

/-- So no word is accepted over the edges left of a FEED (spec R78). -/
theorem acceptedWords_within_feed {ps : List Pins} {s : State} (hps : ∀ p ∈ ps, p.rst = false)
    (hlen : ps.length ≤ edgesLeft s) : acceptedWords ps s = [] := by
  induction ps generalizing s with
  | nil => rfl
  | cons p ps ih =>
    obtain ⟨hp, hps⟩ := List.forall_mem_cons.1 hps
    obtain ⟨hb, hleft⟩ := busy_of_edgesLeft hlen
    rw [acceptedWords, accepts_of_busy p hb, edge_of_busy p s hp hb]
    exact ih hps hleft

/-- `n` bit steps feed the next `n` bits of `dsh`. -/
theorem iterate_feedEdge_crc (n : Nat) (s : State) :
    (feedEdge^[n] s).crc = feedBits s.crc (fedBits n s.dsh) := by
  induction n generalizing s with
  | zero => rfl
  | succ n ih => rw [Function.iterate_succ_apply, ih, feedEdge_crc, feedEdge_dsh, fedBits_succ, feedBits_cons]

/-- `n` bit steps shift `dsh` `n` times. -/
theorem iterate_feedEdge_dsh (n : Nat) (s : State) : (feedEdge^[n] s).dsh = shiftByte^[n] s.dsh :=
  Function.Semiconj.iterate_right (f := State.dsh) feedEdge_dsh n s

/-- The first bits that `dsh` feeds do not depend on how many follow. -/
theorem take_fedBits {n m : Nat} (h : n ≤ m) (d : Byte) : (fedBits m d).take n = fedBits n d := by
  rw [fedBits, ← List.map_take, List.take_iterate, Nat.min_eq_left h, fedBits]

/-! ### A FEED after its accept edge -/

/-- The accept edge of a FEED, whichever word and pins offer it. -/
theorem edge_of_offered_feed {p : Pins} {s : State} {d : Byte} (hr : p.rst = false) (hb : s.busy = false)
    (hv : p.cmdValid = true) (hd : decode p.cmd = .legal (.feed d)) : edge p s = acceptEdge (.feed d) s :=
  (edge_of_offer p s hr hb hv).trans (acceptWord_of_legal s hd)

/-- The accept edge of a FEED leaves eight edges. -/
theorem edgesLeft_acceptFeed (d : Byte) (s : State) : edgesLeft (acceptEdge (.feed d) s) = 8 := rfl

/-- Up to its eighth edge a FEED has fed one input bit an edge, the most significant first (spec R38, R75). -/
theorem runEdges_acceptFeed_crc (d : Byte) (s : State) {qs : List Pins} (hqs : ∀ q ∈ qs, q.rst = false)
    (hlen : qs.length ≤ 8) :
    (runEdges qs (acceptEdge (.feed d) s)).crc = feedBits s.crc ((inputBits d).take qs.length) := by
  rw [runEdges_eq_iterate_feedEdge hqs (edgesLeft_acceptFeed d s ▸ hlen), iterate_feedEdge_crc, ← fedBits_eight,
    take_fedBits hlen]
  rfl

/-- Up to its eighth edge a FEED has shifted `dsh` once an edge. -/
theorem runEdges_acceptFeed_dsh (d : Byte) (s : State) {qs : List Pins} (hqs : ∀ q ∈ qs, q.rst = false)
    (hlen : qs.length ≤ 8) : (runEdges qs (acceptEdge (.feed d) s)).dsh = shiftByte^[qs.length] d := by
  rw [runEdges_eq_iterate_feedEdge hqs (edgesLeft_acceptFeed d s ▸ hlen), iterate_feedEdge_dsh]
  rfl

/-- An edge that leaves a FEED in progress shows no response, whatever the state before it shows (spec R74). -/
theorem edge_busyShowsNoResponse (p : Pins) (s : State) : (edge p s).BusyShowsNoResponse := by
  obtain ⟨-, he⟩ | ⟨-, -, he⟩ | ⟨-, hb, -, he⟩ | ⟨-, -, -, he⟩ := edge_cases p s <;> rw [he]
  · exact nofun
  · obtain ⟨-, hf⟩ | ⟨-, hf⟩ := feedEdge_cases s <;> rw [hf]
    · exact nofun
    · exact fun _ => rfl
  · obtain ⟨d, -, ha⟩ | ⟨-, ha⟩ := acceptWord_cases p.cmd s <;> rw [ha]
    · exact fun _ => rfl
    · exact fun hbusy => absurd (hb.symm.trans hbusy) nofun
  · exact fun _ => rfl

/-- Nor does a run of edges that leaves one in progress, when the state before it shows none. -/
theorem runEdges_busyShowsNoResponse (ps : List Pins) {s : State} (h : s.BusyShowsNoResponse) :
    (runEdges ps s).BusyShowsNoResponse := by
  induction ps generalizing s with
  | nil => exact h
  | cons p ps ih => exact ih (edge_busyShowsNoResponse p s)

/-- Before its eighth edge a FEED keeps the block busy and shows no response (spec R76). -/
theorem runEdges_acceptFeed_in_progress (d : Byte) (s : State) {qs : List Pins} (hqs : ∀ q ∈ qs, q.rst = false)
    (hlen : qs.length < 8) :
    (runEdges qs (acceptEdge (.feed d) s)).busy = true ∧
      (runEdges qs (acceptEdge (.feed d) s)).rspValid = false := by
  obtain ⟨hbusy, -⟩ := runEdges_within_feed qs (s := acceptEdge (.feed d) s) rfl hqs hlen
  exact ⟨hbusy, runEdges_busyShowsNoResponse qs (s := acceptEdge (.feed d) s) (fun _ => rfl) hbusy⟩

/-! ### Words accepted in two parts of a run, and by a ready block -/

/-- The words accepted in a run in two parts. -/
theorem acceptedWords_append (ps qs : List Pins) (s : State) :
    acceptedWords (ps ++ qs) s = acceptedWords ps s ++ acceptedWords qs (runEdges ps s) := by
  induction ps generalizing s with
  | nil => rfl
  | cons p ps ih =>
    rw [List.cons_append, acceptedWords, acceptedWords, ih, runEdges_cons]
    split <;> rfl

/-- Without reset a ready block accepts what is offered, and only that (spec R10). -/
theorem accepts_of_not_busy {p : Pins} {s : State} (hr : p.rst = false) (hb : s.busy = false) :
    accepts p s = p.cmdValid := by
  simp [accepts, cmdReady, hr, hb]

/-- One edge of a ready block without reset. -/
theorem acceptedWords_singleton {p : Pins} {s : State} (hr : p.rst = false) (hb : s.busy = false) :
    acceptedWords [p] s = if p.cmdValid then [p.cmd] else [] := by
  rw [acceptedWords, accepts_of_not_busy hr hb, acceptedWords]

/-! ### Reset edges -/

/-- Reset edges show no response. -/
theorem responses_of_rst {ps : List Pins} (hps : ∀ p ∈ ps, p.rst = true) (s : State) : responses ps s = [] := by
  induction ps generalizing s with
  | nil => rfl
  | cons p ps ih =>
    obtain ⟨hp, hps⟩ := List.forall_mem_cons.1 hps
    rw [responses_cons, ih hps, edge_of_rst p s hp]
    rfl

/-- Reset edges accept no word. -/
theorem acceptedWords_of_rst {ps : List Pins} (hps : ∀ p ∈ ps, p.rst = true) (s : State) :
    acceptedWords ps s = [] := by
  induction ps generalizing s with
  | nil => rfl
  | cons p ps ih =>
    obtain ⟨hp, hps⟩ := List.forall_mem_cons.1 hps
    simp [acceptedWords, accepts, hp, ih hps]

/-- Each reset edge is a reset transaction, and nothing else: a pending FEED is abandoned. -/
theorem completed_of_rst {ps : List Pins} (hps : ∀ p ∈ ps, p.rst = true) (pending : Option Word) (s : State) :
    completed ps pending s = List.replicate ps.length .reset := by
  induction ps generalizing pending s with
  | nil => rfl
  | cons p ps ih =>
    obtain ⟨hp, hps⟩ := List.forall_mem_cons.1 hps
    rw [completed, if_pos hp, ih hps, List.length_cons, List.replicate_succ]

end Sys2Proof.Machine
end

section
/-! PROOFS. The cycle level refines the transaction level (spec R75): a run without reset completes the words it
accepts, in order. -/

namespace Sys2Proof.Machine

/-- The word of the FEED in progress, if there is one. -/
def wordInProgress (pending : Option Word) (s : State) : List Word := if s.busy then pending.toList else []

theorem wordInProgress_of_not_busy (pending : Option Word) {s : State} (hb : s.busy = false) :
    wordInProgress pending s = [] := by
  simp [wordInProgress, hb]

/-- Without reset, what a run completes is the word in progress and then the words it accepts. -/
theorem completed_of_no_reset {ps : List Pins} {s : State} (pending : Option Word)
    (hps : ∀ p ∈ ps, p.rst = false) (hend : (runEdges ps s).busy = false) :
    completed ps pending s = (wordInProgress pending s ++ acceptedWords ps s).map .command := by
  induction ps generalizing s pending with
  | nil =>
    have hb : s.busy = false := hend
    rw [wordInProgress_of_not_busy pending hb]
    rfl
  | cons p ps ih =>
    obtain ⟨hr, hps⟩ := List.forall_mem_cons.1 hps
    have hrest := fun pending' => ih (s := edge p s) pending' hps hend
    obtain ⟨hrst, -⟩ | ⟨-, hb, -⟩ | ⟨-, hb, hv, -⟩ | ⟨-, hb, hv, he⟩ := edge_cases p s
    · simp [hr] at hrst
    · cases hnext : (edge p s).busy <;>
        simp [completed, acceptedWords, accepts_of_busy, wordInProgress, hr, hb, hnext, hrest, Option.toList_map]
    · cases hnext : (edge p s).busy <;>
        simp [completed, acceptedWords, accepts_of_not_busy, wordInProgress, hr, hb, hv, hnext, hrest]
    · have hnext : (edge p s).busy = false := by rw [he, noResponse_busy, hb]
      simp [completed, acceptedWords, accepts_of_not_busy, wordInProgress, hr, hb, hv, hnext, hrest]

/-- A run of transactions that are all commands is a run of their words through `Exec`. -/
theorem runTransactions_map_command (c : Byte) (ws : List Word) :
    runTransactions c (ws.map .command) = runExec c ws := by
  induction ws generalizing c with
  | nil => rfl
  | cons w ws ih => rw [List.map_cons, runTransactions, ih, runExec]

/-- A run without reset from a ready block to a ready block is its accepted words through `Exec` (spec R75). -/
theorem runExec_acceptedWords {ps : List Pins} {s : State} (hb : s.busy = false) (hps : ∀ p ∈ ps, p.rst = false)
    (hend : (runEdges ps s).busy = false) :
    runExec s.crc (acceptedWords ps s) = ((runEdges ps s).crc, responses ps s) := by
  have hcompleted : completed ps none s = (acceptedWords ps s).map .command := by
    rw [completed_of_no_reset none hps hend, wordInProgress_of_not_busy none hb, List.nil_append]
  rw [← runTransactions_map_command, ← hcompleted]
  exact (InStep.of_not_busy hb none).run hend

/-- Settles O27: a word is answered at its accept edge or feeds one bit an edge, and a run is its accepted words. -/
theorem cycleLevelRefinesTransactionLevel : Obligations.CycleLevelRefinesTransactionLevel := by
  unfold Obligations.CycleLevelRefinesTransactionLevel
  refine ⟨?_, fun s ps ⟨hb, _, _⟩ => runExec_acceptedWords hb⟩
  rintro s p ⟨hb, hcnt, hdsh⟩ hr hv
  refine ⟨fun hd => ?_, ?_⟩
  · rw [edge_of_offer p s hr hb hv, acceptWord_of_not_feed s hd]
    exact ⟨⟨hb, hcnt, hdsh⟩, rfl, rfl⟩
  · rintro d qs hd hqs t rfl
    rw [runEdges_cons, edge_of_offered_feed hr hb hv hd, transact_of_feed s.crc hd]
    refine ⟨runEdges_acceptFeed_crc d s hqs, runEdges_acceptFeed_in_progress d s hqs, fun hlen => ?_⟩
    rw [runEdges_eight_after_acceptFeed d s hqs hlen]
    exact ⟨⟨rfl, rfl, rfl⟩, rfl, rfl, rfl, rfl⟩

end Sys2Proof.Machine
end

section
/-! PROOFS. A message sent back to back by a host that keeps offering its words (spec R77): one edge for CLEAR, nine for
each FEED, one for READ. -/

namespace Sys2Proof.Machine

/-- The edges of such a host in two parts. -/
theorem drive_add (m n : Nat) (x : Driven) : drive (m + n) x = drive n (drive m x) := by
  induction m generalizing x with
  | zero => rw [Nat.zero_add, drive]
  | succ m ih => rw [Nat.succ_add, drive, ih, drive]

/-- While the block is busy the host's word waits (spec R78). -/
theorem driveEdge_of_busy (ws : List Word) {s : State} (hb : s.busy = true) :
    driveEdge ⟨ws, s⟩ = ⟨ws, feedEdge s⟩ := by
  cases ws with
  | nil => rw [driveEdge, edge_of_busy _ s rfl hb]
  | cons w ws => simp [driveEdge, accepts_of_busy, hb, edge_of_busy, Pins.offer]

/-- Over the edges left of a FEED the host's words wait. -/
theorem drive_within_feed (ws : List Word) {n : Nat} {s : State} (hn : n ≤ edgesLeft s) :
    drive n ⟨ws, s⟩ = ⟨ws, feedEdge^[n] s⟩ := by
  induction n generalizing s with
  | zero => rfl
  | succ n ih =>
    obtain ⟨hb, hleft⟩ := busy_of_edgesLeft hn
    rw [drive, driveEdge_of_busy ws hb, ih hleft, Function.iterate_succ_apply]

/-- A ready block takes the host's next command. -/
theorem driveEdge_of_not_busy (i : Instr) (ws : List Word) {s : State} (hb : s.busy = false) :
    driveEdge ⟨encode i :: ws, s⟩ = ⟨ws, acceptEdge i s⟩ := by
  have haccepts : accepts (Pins.offer (encode i)) s = true := accepts_of_not_busy rfl hb
  simp [driveEdge, haccepts, edge_offer_encode i hb]

/-- The eight bit steps of a loaded byte complete its FEED. -/
theorem iterate_feedEdge_eight (d : Byte) (s : State) :
    feedEdge^[8] (acceptEdge (.feed d) s) = respond 0x00#8 false (feedByte d s) := by
  rw [← runEdges_after_acceptFeed,
    runEdges_eq_iterate_feedEdge (by simp [Pins.quiet]) (by simp [edgesLeft_acceptFeed]), List.length_replicate]

/-- A FEED takes nine edges: its accept edge and eight bit steps. -/
theorem drive_feed (d : Byte) (ws : List Word) {s : State} (hb : s.busy = false) :
    drive 9 ⟨encode (.feed d) :: ws, s⟩ = ⟨ws, respond 0x00#8 false (feedByte d s)⟩ := by
  rw [drive, driveEdge_of_not_busy (.feed d) ws hb, drive_within_feed ws (edgesLeft_acceptFeed d s).ge,
    iterate_feedEdge_eight]

/-- The FEEDs of a message take nine edges a byte and fold its bytes into the register. -/
theorem drive_feeds (bytes : List Byte) (ws : List Word) {s : State} (hb : s.busy = false) :
    ∃ t, drive (9 * bytes.length) ⟨bytes.map (fun b => encode (.feed b)) ++ ws, s⟩ = ⟨ws, t⟩ ∧
      t.crc = feedBytes s.crc bytes ∧ t.busy = false := by
  induction bytes generalizing s with
  | nil => exact ⟨s, rfl, rfl, hb⟩
  | cons b bytes ih =>
    obtain ⟨t, hdrive, hcrc, hbusy⟩ := ih (s := respond 0x00#8 false (feedByte b s)) rfl
    refine ⟨t, ?_, hcrc, hbusy⟩
    rw [List.length_cons, Nat.mul_succ, Nat.add_comm, drive_add, List.map_cons, List.cons_append, drive_feed b _ hb,
      hdrive]

/-- Before the READ of a message: `9N + 1` edges leave the READ alone, and a ready block with the message's register. -/
theorem drive_message (bytes : List Byte) {s : State} (hb : s.busy = false) :
    ∃ t, drive (9 * bytes.length + 1) ⟨messageWords bytes, s⟩ = ⟨[encode .read], t⟩ ∧
      t.crc = feedBytes initialCrc bytes ∧ t.busy = false := by
  obtain ⟨t, hdrive, hend⟩ := drive_feeds bytes [encode .read] (s := acceptEdge .clear s) hb
  refine ⟨t, ?_, hend⟩
  rw [drive, messageWords, driveEdge_of_not_busy .clear _ hb, hdrive]

/-- Settles O32: CLEAR and the FEEDs leave the READ to a ready block, which answers it at the next edge. -/
theorem messageTakesNineEdgesPerByte : Obligations.MessageTakesNineEdgesPerByte := by
  unfold Obligations.MessageTakesNineEdgesPerByte
  refine ⟨?_, fun p s hr hb => by rw [edge_of_busy p s hr hb, feedEdge_crc, topBit]⟩
  rintro bytes s hb _ rfl
  obtain ⟨t, hdrive, hcrc, hready⟩ := drive_message bytes hb
  have hread : drive (9 * bytes.length + 2) ⟨messageWords bytes, s⟩ = ⟨[], respond (stuff t.crc) false t⟩ := by
    rw [drive_add _ 1, hdrive, drive, driveEdge_of_not_busy .read [] hready]
    rfl
  rw [hdrive, hread]
  exact ⟨rfl, rfl, congrArg stuff hcrc, rfl, rfl⟩

end Sys2Proof.Machine
end

section
/-! PROOFS. Reset, the clock edge and the handshake (spec R72, R74, R76, R78, R79). -/

namespace Sys2Proof.Machine

/-- Settles O20: the registers, the responses, the accepted words and the transactions of reset edges; the block they
leave is ready. -/
theorem resetOverridesEverything : Obligations.ResetOverridesEverything := by
  unfold Obligations.ResetOverridesEverything
  refine ⟨fun s ps hne hps => ?_, fun s => ?_, fun _ _ => rfl⟩
  · rw [runEdges_of_rst hne hps]
    exact ⟨rfl, responses_of_rst hps s, acceptedWords_of_rst hps s,
      fun q hq => acceptedWords_singleton hq (resetRegisters_busy s), fun pending => completed_of_rst hps pending s⟩
  · simp [cmdReady]

/-! ### The clock edge, branch by branch -/

/-- The eighth bit of a FEED, in the registers. -/
theorem feedEdge_of_last_bit {s : State} (hc : s.cnt = 7#3) : feedEdge s =
    respond 0x00#8 false { stepBit s with busy := false, cnt := 0#3 } := if_pos hc

/-- An earlier bit. -/
theorem feedEdge_of_earlier_bit {s : State} (hc : s.cnt ≠ 7#3) : feedEdge s =
    noResponse { stepBit s with cnt := s.cnt + 1#3 } := if_neg hc

/-- Settles O22: each branch of an edge is an operation on the registers, and a FEED shifts `dsh` once an edge. -/
theorem clockEdgeUpdatesTheRegisters : Obligations.ClockEdgeUpdatesTheRegisters := by
  unfold Obligations.ClockEdgeUpdatesTheRegisters
  refine ⟨fun p s => ⟨edge_of_rst p s, fun hr hb hc => ?_, fun hr hb hc => ?_, fun hr hb hv => ?_,
    edge_of_quiet p s, rfl⟩, fun p s d qs hr hv hb hd hqs hlen => ?_⟩
  · exact (edge_of_busy p s hr hb).trans (feedEdge_of_last_bit hc)
  · exact (edge_of_busy p s hr hb).trans (feedEdge_of_earlier_bit hc)
  · rw [edge_of_offer p s hr hb hv, acceptWord]
    cases decode p.cmd with
    | illegal => rfl
    | legal i => cases i <;> rfl
  · rw [runEdges_cons, edge_of_offered_feed hr hb hv hd, runEdges_acceptFeed_dsh d s hqs hlen.le]
    exact ⟨rfl, topBit_shiftByte_iterate hlen d⟩

/-! ### Timing -/

/-- A block that is not busy is ready, ends its response pulse when nothing is offered, and accepts any word. -/
theorem ready_of_not_busy {t : State} (hb : t.busy = false) :
    cmdReady t false = true ∧ (edge Pins.quiet t).rspValid = false ∧
      ∀ w : Word, accepts (Pins.offer w) t = true := by
  refine ⟨by simp [cmdReady, hb], ?_, fun w => accepts_of_not_busy rfl hb⟩
  rw [edge_of_quiet Pins.quiet t rfl hb rfl, noResponse_rspValid]

/-- Settles O31: a word is answered at its accept edge, or at the eighth edge of its FEED; the block is then ready. -/
theorem commandTiming : Obligations.CommandTiming := by
  unfold Obligations.CommandTiming
  refine ⟨fun p s hr hv hb => ⟨fun hd => ?_, fun d qs hd hqs => ?_⟩, fun p q s hp hr hv => ?_⟩
  · rw [edge_of_offer p s hr hb hv, acceptWord_of_not_feed s hd]
    exact ⟨rfl, ready_of_not_busy hb⟩
  · rw [runEdges_cons, edge_of_offered_feed hr hb hv hd]
    refine ⟨fun hlen => ?_, fun hlen => ?_⟩
    · obtain ⟨hbusy, hvalid⟩ := runEdges_acceptFeed_in_progress d s hqs hlen
      exact ⟨hvalid, by simp [cmdReady, hbusy]⟩
    · rw [runEdges_eight_after_acceptFeed d s hqs hlen]
      exact ⟨rfl, ready_of_not_busy rfl⟩
  · rw [edge_of_rst p s hp]
    exact ⟨rfl, rfl, (accepts_of_not_busy hr (resetRegisters_busy s)).trans hv⟩

/-! ### Waiting words and held responses -/

/-- Settles O33: the pins have no effect over the edges left of the FEED, and the block is ready after them. -/
theorem waitingWordIsNotTaken : Obligations.WaitingWordIsNotTaken := by
  unfold Obligations.WaitingWordIsNotTaken
  intro s ps qs hb hps hqs hlength hlen
  have hleft := edgesLeft_of_busy hb
  have hnone : acceptedWords ps s = [] := acceptedWords_within_feed hps (hleft ▸ hlen)
  refine ⟨hnone, ?_, fun hlast w => ?_⟩
  · rw [runEdges_eq_iterate_feedEdge hps (hleft ▸ hlen), hlength,
      runEdges_eq_iterate_feedEdge hqs (hleft ▸ hlength ▸ hlen)]
  · have hready : (runEdges ps s).busy = false := by
      rw [runEdges_rest_of_feed ps s hps hb (hlast.trans hleft.symm), respond_busy]
    rw [acceptedWords_append, hnone, acceptedWords_singleton rfl hready]
    rfl

/-- An edge that shows no response leaves nothing to list. -/
theorem shownResponse_toList_eq_nil {s : State} : (shownResponse s).toList = [] ↔ s.rspValid = false := by
  simp [shownResponse]

/-- Over edges without reset that show no response, the last response is held (spec R79). -/
theorem runEdges_keeps_response {ps : List Pins} {s : State} (hps : ∀ p ∈ ps, p.rst = false)
    (hnone : responses ps s = []) :
    (runEdges ps s).rspData = s.rspData ∧ (runEdges ps s).rspErr = s.rspErr := by
  induction ps generalizing s with
  | nil => exact ⟨rfl, rfl⟩
  | cons p ps ih =>
    obtain ⟨hr, hps⟩ := List.forall_mem_cons.1 hps
    rw [responses_cons, List.append_eq_nil_iff, shownResponse_toList_eq_nil] at hnone
    obtain ⟨hvalid, hnone⟩ := hnone
    obtain ⟨-, hkept, -⟩ := responseIsValidForOneCycle p s
    obtain ⟨hdata, herr⟩ := hkept hr hvalid
    obtain ⟨hdata', herr'⟩ := ih hps hnone
    exact ⟨hdata'.trans hdata, herr'.trans herr⟩

/-- Settles O34: a response is held until the next one, which a CLEAR right after a READ brings at once. -/
theorem responseIsHeldUntilTheNext : Obligations.ResponseIsHeldUntilTheNext := by
  unfold Obligations.ResponseIsHeldUntilTheNext
  refine ⟨fun _ _ => runEdges_keeps_response, fun s hb => ?_⟩
  obtain ⟨-, hquiet, -⟩ := ready_of_not_busy hb
  have hread : edge (Pins.offer 0x0300#16) s = respond (stuff s.crc) false s := edge_offer_encode .read hb
  have hclear : edge (Pins.offer 0x0100#16) (respond (stuff s.crc) false s) =
      respond 0x00#8 false (clearCrc (respond (stuff s.crc) false s)) := edge_offer_encode .clear hb
  refine ⟨hquiet, by rw [hread, respond_rspData], ?_⟩
  rw [runEdges_cons, runEdges_cons, runEdges_nil, hread, hclear, respond_rspData]

end Sys2Proof.Machine
end

section
/-! PROOFS. The message vectors (95_test_vectors.md sections 2.4 and 2.5): each result is the stuffed register that
stands after the last byte. -/

namespace Sys2Proof.Machine

/-- A message's result is the stuffed register after its last byte (spec R42). -/
theorem crc7_eq_stuff_of_register {bytes : List Byte} {c : Byte} (h : feedBytes 0x00#8 bytes = c) :
    crc7 bytes = stuff c := by
  rw [crc7, initialCrc, h]

/-- Settles O16: the registers of the spec's tables, CMD0's reached from that of its first byte 0x40, stuffed. -/
theorem messageVectors : Obligations.MessageVectors := by
  unfold Obligations.MessageVectors
  have h40 : feedBytes 0x00#8 [0x40#8] = 0x64#8 := by decide +kernel
  have hFF05 : feedBytes 0x00#8 [0xFF#8, 0x05#8] = 0x31#8 := by decide +kernel
  have hcmd0 : feedBytes 0x00#8 ([0x40#8] ++ List.replicate 4 0x00#8) = 0x4A#8 := by
    rw [feedBytes_append, h40]
    decide +kernel
  have hdigits : feedBytes 0x00#8 [0x31#8, 0x32#8, 0x33#8, 0x34#8, 0x35#8, 0x36#8, 0x37#8, 0x38#8, 0x39#8] =
      0x75#8 := by
    decide +kernel
  exact ⟨crc7_eq_stuff_of_register h40, crc7_eq_stuff_of_register hFF05, crc7_eq_stuff_of_register hcmd0,
    crc7_eq_stuff_of_register hdigits⟩

end Sys2Proof.Machine
end
